-- ==== Sys2Proof/Word.lean ====
section
/-! DEFINITION. The word types of WNE: the host's 32-bit bus word, the 96-bit integer, and the two
register widths (spec/00_scope.md R7, spec/10_state.md R20). -/

namespace Sys2Proof

/-- A host access carries a 32-bit value (20_memory.md R42, R45); a command is one such word (R60). -/
abbrev Word := BitVec 32

/-- The wide integer, `INT_W` = 96 bits (00_scope.md R7). -/
abbrev Word96 := BitVec 96

/-- The operand and result registers, `OPR_W` = 128 bits (00_scope.md R7). -/
abbrev Word128 := BitVec 128

/-- The magnitude and exponent registers, `DM_W` = `DE_W` = 256 bits (00_scope.md R7). -/
abbrev Word256 := BitVec 256

end Sys2Proof
end

