-- ==== Sys2Proof/Config.lean ====
section
/-! DEFINITION. What the platform fixes (WNE_BASE) and the values the spec leaves free
(spec/93_implementation_defined.md I3, I4, I7). Every other parameter of R7 is fixed by the spec and
stands with the operation that uses it. -/

namespace Sys2Proof.Config

/-- The window is 256 bytes long (20_memory.md R40). -/
def windowBytes : Nat := 256

/-- `WNE_BASE` is an argument of the address functions of Machine/Bus.lean and must be a multiple of
256 (20_memory.md R40; 93 I7). Log entry 1. -/
def validBase (base : Nat) : Bool := base % windowBytes == 0

/-- What a host read cut short by reset returns: any 32-bit value (93 I4). Log entry 8. -/
opaque cutRead : Nat → Word

/-- What each register holds where a second bus master has acted: any value of its width
(60_exceptions.md R212; 93 I3). Log entry 7. -/
opaque otherStatus : Nat → Word

/-- CMD after a second master has acted (93 I3). -/
opaque otherCmd : Nat → Word

/-- A after a second master has acted (93 I3). -/
opaque otherA : Nat → Word128

/-- B after a second master has acted (93 I3). -/
opaque otherB : Nat → Word128

/-- R after a second master has acted (93 I3). -/
opaque otherR : Nat → Word128

/-- DS after a second master has acted (93 I3). -/
opaque otherDs : Nat → BitVec 1

/-- DM after a second master has acted (93 I3). -/
opaque otherDm : Nat → Word256

/-- DE after a second master has acted (93 I3). -/
opaque otherDe : Nat → Word256

end Sys2Proof.Config
end

