-- ==== Sys2Proof/Syntax.lean ====
section
/-! DEFINITION. The nine commands of WNE and the format descriptors they carry
(spec/30_encoding.md R60 to R68, spec/opcode_table.json). -/

namespace Sys2Proof

/-- The kind K of a format descriptor (30_encoding.md R67). -/
inductive Kind where
  | fixed
  | float
deriving DecidableEq, Repr

/-- The six storage widths a width code can name; codes 6 and 7 name none (30_encoding.md R68). -/
inductive Width where
  | w8
  | w16
  | w32
  | w64
  | w96
  | w128
deriving DecidableEq, Repr

/-- A format descriptor (30_encoding.md R67): kind K, width W, signedness S and the parameter P, a
count of fractional bits (fixed) or mantissa bits (float) in which 0 selects the default. -/
structure Descriptor where
  kind : Kind
  width : Width
  signed : Bool
  param : Nat
deriving DecidableEq, Repr

/-- The commands, one constructor per row of spec/opcode_table.json. Every register operand is
implicit (30_encoding.md R65). -/
inductive Instr where
  /-- 40_wide_integer.md R101 -/
  | nop
  /-- 40_wide_integer.md R102 -/
  | iadd
  /-- 40_wide_integer.md R103 -/
  | isub
  /-- 40_wide_integer.md R104 -/
  | ineg
  /-- 40_wide_integer.md R105 -/
  | imul
  /-- 41_decompose.md R126: `src` is SFMT -/
  | decomp (src : Descriptor)
  /-- 42_recompose.md R144: `dst` is DFMT -/
  | recomp (dst : Descriptor)
  /-- 42_recompose.md R145: `src` is SFMT, `dst` is DFMT -/
  | cvt (src dst : Descriptor)
  /-- 43_rounder.md R162: `k` is the shift amount K -/
  | rndsh (k : Nat)
deriving DecidableEq, Repr

end Sys2Proof
end

