-- ==== Sys2Proof/WellFormed.lean ====
section
/-! DEFINITION. Which terms of `Instr` stand for a command word: the immediates fit their fields
(spec/30_encoding.md R76). A descriptor that is a configuration error (R202) is still a well-formed
operand: the command word is legal and the command raises CONFIG when it runs. -/

namespace Sys2Proof

/-- P is an 8-bit unsigned field, 0 to 255 (30_encoding.md R67, R76). -/
def Descriptor.wellFormed (d : Descriptor) : Bool := decide (d.param < 256)

/-- Every immediate of the command fits its field; K is 9 bits, 0 to 511 (30_encoding.md R64, R76). -/
def Instr.wellFormed : Instr → Bool
  | .nop => true
  | .iadd => true
  | .isub => true
  | .ineg => true
  | .imul => true
  | .decomp src => src.wellFormed
  | .recomp dst => dst.wellFormed
  | .cvt src dst => src.wellFormed && dst.wellFormed
  | .rndsh k => decide (k < 512)

end Sys2Proof
end

