-- ==== Sys2Proof/Decode.lean ====
section
/-! DEFINITION. The decoder of command words, total and strict (spec/30_encoding.md R60 to R68, R72),
and the encoder written from the same field tables. -/

namespace Sys2Proof

/-- Why a word is no command (30_encoding.md R66): the cases (a), (b) and (c). All three raise ILLEGAL
and are not told apart in STATUS (60_exceptions.md R201). -/
inductive IllegalWord where
  /-- R66 (a): a reserved opcode -/
  | reservedOpcode (op : Nat)
  /-- R66 (b): a bit the command's format marks "must be 0" is 1 -/
  | mustBeZero
  /-- R66 (c): a descriptor the command uses has WC = 6 or 7 -/
  | reservedWidth
deriving DecidableEq, Repr

/-- What the decoder answers: a command, or the word's rejection by name. -/
inductive Decoded where
  | instr (i : Instr)
  | illegal (why : IllegalWord)
deriving DecidableEq, Repr

/-! ### Fields (R61 to R64, R67) -/

/-- OP = CMD[4:0] (R61). -/
def opField (w : Word) : BitVec 5 := w.extractLsb' 0 5

/-- SFMT = CMD[17:5] (R63). -/
def sfmtField (w : Word) : BitVec 13 := w.extractLsb' 5 13

/-- DFMT = CMD[30:18] (R63). -/
def dfmtField (w : Word) : BitVec 13 := w.extractLsb' 18 13

/-- K = CMD[13:5] (R64). -/
def shiftField (w : Word) : BitVec 9 := w.extractLsb' 5 9

/-- The width a code names (R68). -/
def widthOfCode (wc : BitVec 3) : Option Width :=
  match wc.toNat with
  | 0 => some .w8
  | 1 => some .w16
  | 2 => some .w32
  | 3 => some .w64
  | 4 => some .w96
  | 5 => some .w128
  | _ => none

/-- The code of a width (R68). -/
def codeOfWidth : Width → BitVec 3
  | .w8 => 0#3
  | .w16 => 1#3
  | .w32 => 2#3
  | .w64 => 3#3
  | .w96 => 4#3
  | .w128 => 5#3

/-- The kind a K bit names (R67). -/
def kindOfBit (k : BitVec 1) : Kind := if k = 1#1 then .float else .fixed

/-- The K bit of a kind (R67). -/
def bitOfKind : Kind → BitVec 1
  | .fixed => 0#1
  | .float => 1#1

/-- A 13-bit descriptor field: K = d[0], WC = d[3:1], S = d[4], P = d[12:5] (R67). -/
def decodeDescriptor (d : BitVec 13) : Option Descriptor :=
  match widthOfCode (d.extractLsb' 1 3) with
  | none => none
  | some width =>
    some { kind := kindOfBit (d.extractLsb' 0 1), width := width,
           signed := d.extractLsb' 4 1 == 1#1, param := (d.extractLsb' 5 8).toNat }

/-- The 13-bit field of a descriptor (R67). -/
def encodeDescriptor (d : Descriptor) : BitVec 13 :=
  BitVec.ofNat 8 d.param ++ BitVec.ofBool d.signed ++ codeOfWidth d.width ++ bitOfKind d.kind

/-! ### Decoding (R72) -/

/-- Format N: CMD[31:5] must be 0 (R62). -/
def decodeFormatN (w : Word) (i : Instr) : Decoded :=
  if w.extractLsb' 5 27 = 0#27 then .instr i else .illegal .mustBeZero

/-- DECOMP: CMD[31:18] must be 0, SFMT is a descriptor (R63, R72). -/
def decodeDecomp (w : Word) : Decoded :=
  if w.extractLsb' 18 14 = 0#14 then
    match decodeDescriptor (sfmtField w) with
    | none => .illegal .reservedWidth
    | some src => .instr (.decomp src)
  else .illegal .mustBeZero

/-- RECOMP: CMD[31] and SFMT must be 0, DFMT is a descriptor (R63, R72). -/
def decodeRecomp (w : Word) : Decoded :=
  if w.extractLsb' 31 1 = 0#1 ∧ sfmtField w = 0#13 then
    match decodeDescriptor (dfmtField w) with
    | none => .illegal .reservedWidth
    | some dst => .instr (.recomp dst)
  else .illegal .mustBeZero

/-- CVT: CMD[31] must be 0, SFMT and DFMT are descriptors (R63, R72). -/
def decodeCvt (w : Word) : Decoded :=
  if w.extractLsb' 31 1 = 0#1 then
    match decodeDescriptor (sfmtField w), decodeDescriptor (dfmtField w) with
    | some src, some dst => .instr (.cvt src dst)
    | none, _ => .illegal .reservedWidth
    | some _, none => .illegal .reservedWidth
  else .illegal .mustBeZero

/-- RNDSH: CMD[31:14] must be 0 (R64, R72). -/
def decodeRndsh (w : Word) : Decoded :=
  if w.extractLsb' 14 18 = 0#18 then .instr (.rndsh (shiftField w).toNat)
  else .illegal .mustBeZero

/-- The command a word is, or why it is none (R65, R66, R72). -/
def decode (w : Word) : Decoded :=
  match (opField w).toNat with
  | 0x00 => decodeFormatN w .nop
  | 0x01 => decodeFormatN w .iadd
  | 0x02 => decodeFormatN w .isub
  | 0x03 => decodeFormatN w .ineg
  | 0x04 => decodeFormatN w .imul
  | 0x08 => decodeDecomp w
  | 0x09 => decodeRecomp w
  | 0x0A => decodeCvt w
  | 0x0B => decodeRndsh w
  | op => .illegal (.reservedOpcode op)

/-- The command of a legal word. -/
def Decoded.toOption : Decoded → Option Instr
  | .instr i => some i
  | .illegal _ => none

/-- The host's question: the command the decoder reads from the low `nbits` bits of `w`. A command is
one 32-bit value and has no byte order of its own (30_encoding.md R60, 20_memory.md R45). -/
def decodeTableWord (nbits w : Nat) : Option Instr :=
  (decode (BitVec.ofNat 32 (w % 2 ^ nbits))).toOption

/-! ### Encoding (R62 to R65) -/

/-- The command word of a well-formed command (R62 to R65). -/
def encode : Instr → Word
  | .nop => 0#27 ++ 0x00#5
  | .iadd => 0#27 ++ 0x01#5
  | .isub => 0#27 ++ 0x02#5
  | .ineg => 0#27 ++ 0x03#5
  | .imul => 0#27 ++ 0x04#5
  | .decomp src => 0#14 ++ encodeDescriptor src ++ 0x08#5
  | .recomp dst => 0#1 ++ encodeDescriptor dst ++ 0#13 ++ 0x09#5
  | .cvt src dst => 0#1 ++ encodeDescriptor dst ++ encodeDescriptor src ++ 0x0A#5
  | .rndsh k => 0#18 ++ BitVec.ofNat 9 k ++ 0x0B#5

end Sys2Proof
end

