-- ==== Sys2Proof/Machine/State.lean ====
section
/-! DEFINITION. The state of WNE (spec/10_state.md R20), the bus events it serves, the reasons a step
can stop, and the state after reset (spec/70_reset_and_hazards.md R220). -/

namespace Sys2Proof.Machine

/-- One access of the host to the window (20_memory.md R42). `offset` is the byte offset from WNE_BASE,
`width` the access width in bits, `value` the data of a write; only a 32-bit write's value is ever
used, since no other width is served. -/
inductive Access where
  | read (offset : BitVec 8) (width : Nat)
  | write (offset : BitVec 8) (width : Nat) (value : Word)
deriving DecidableEq, Repr

/-- What can happen to WNE from outside, one event at a time in the host's program order
(20_memory.md R48). -/
inductive Event where
  /-- an access of the host (R42) -/
  | access (a : Access)
  /-- the platform's reset signal, with the host access it cuts short, if any
  (70_reset_and_hazards.md R220, R222) -/
  | reset (cut : Option Access)
  /-- a second bus master has used WNE between two accesses of the host (60_exceptions.md R212) -/
  | otherMaster
deriving DecidableEq, Repr

/-- The registers of WNE (10_state.md R20; ID is a constant, `wneId`), and three fields of the model's
own: `pending`, the bus events still to be served, oldest first; `replies`, the data the host's reads
were answered with, newest first; `freeCount`, the number of free values taken so far. -/
structure State where
  status : Word
  cmd : Word
  a : Word128
  b : Word128
  r : Word128
  ds : BitVec 1
  dm : Word256
  de : Word256
  pending : List Event
  replies : List Word
  freeCount : Nat
deriving DecidableEq, Repr

/-- Why WNE stops. -/
inductive Fault where
  /-- `BusError(offset, width)`: raised by a host access that is not an aligned 32-bit one. WNE's state
  is unchanged and what the host does next is the host's (20_memory.md R42; 93 I1). Safe: the model
  stops where the platform goes on. -/
  | busError (offset : BitVec 8) (width : Nat)
deriving DecidableEq, Repr

/-- Why the model gives an instruction no meaning. -/
inductive Refusal where
  /-- An arm of `exec` without a meaning, by its mnemonic in the opcode table. No arm is left in this
  state. Safe: the model stops. -/
  | notModelled (mnemonic : String)
deriving DecidableEq, Repr

/-- The machine right after reset: every register 0 (70_reset_and_hazards.md R220), and nothing on the
bus yet (R221; log entries 2, 3 and 9). -/
def State.reset : State :=
  { status := 0#32, cmd := 0#32, a := 0#128, b := 0#128, r := 0#128,
    ds := 0#1, dm := 0#256, de := 0#256,
    pending := [], replies := [], freeCount := 0 }

end Sys2Proof.Machine
end

