-- ==== Sys2Proof/Machine/Flags.lean ====
section
/-! DEFINITION. The STATUS register: its fields, the error codes and the class codes
(spec/10_state.md R28, R29; spec/60_exceptions.md R200). WNE has no arithmetic flags (R33). -/

namespace Sys2Proof.Machine

/-- The error codes of STATUS.ERR (60_exceptions.md R200). -/
inductive ErrCode where
  | none
  | illegal
  | config
  | representation
deriving DecidableEq, Repr

/-- The classes of a storage word, and NONE (10_state.md R29). -/
inductive NumClass where
  | none
  | zero
  | subnormal
  | normal
  | infinity
  | nan
  | fixnz
deriving DecidableEq, Repr

/-- The 4-bit code of an error (60_exceptions.md R200). -/
def ErrCode.code : ErrCode → BitVec 4
  | .none => 0#4
  | .illegal => 1#4
  | .config => 2#4
  | .representation => 3#4

/-- The 3-bit code of a class (10_state.md R29). -/
def NumClass.code : NumClass → BitVec 3
  | .none => 0#3
  | .zero => 1#3
  | .subnormal => 2#3
  | .normal => 3#3
  | .infinity => 4#3
  | .nan => 5#3
  | .fixnz => 6#3

/-- STATUS with the three fields given and every reserved bit 0 (10_state.md R28). -/
def mkStatus (err : ErrCode) (sclass rclass : NumClass) : Word :=
  0#21 ++ rclass.code ++ 0#1 ++ sclass.code ++ err.code

/-- STATUS[3:0] (10_state.md R28). -/
def statusErr (w : Word) : BitVec 4 := w.extractLsb' 0 4

/-- STATUS[6:4] (10_state.md R28). -/
def statusSclass (w : Word) : BitVec 3 := w.extractLsb' 4 3

/-- STATUS[10:8] (10_state.md R28). -/
def statusRclass (w : Word) : BitVec 3 := w.extractLsb' 8 3

end Sys2Proof.Machine
end

