-- ==== Sys2Proof/Machine/Operands.lean ====
section
/-! DEFINITION. The operand forms: the integer view of A and B (spec/10_state.md R21, R22), and what a
format descriptor means: width, effective counts, validity, fields and class of a raw word
(spec/30_encoding.md R68 to R74, spec/41_decompose.md R120 to R122). -/

namespace Sys2Proof

/-- W in bits (30_encoding.md R68). -/
def Width.bits : Width → Nat
  | .w8 => 8
  | .w16 => 16
  | .w32 => 32
  | .w64 => 64
  | .w96 => 96
  | .w128 => 128

/-- DEFMANT(W, S) (30_encoding.md R71). Log entry 12. -/
def defMant (w : Width) (signed : Bool) : Nat :=
  match w, signed with
  | .w8, true => 3
  | .w8, false => 4
  | .w16, true => 10
  | .w16, false => 11
  | .w32, true => 23
  | .w32, false => 24
  | .w64, true => 52
  | .w64, false => 53
  | .w96, true => 80
  | .w96, false => 81
  | .w128, true => 112
  | .w128, false => 113

namespace Descriptor

/-- W of the descriptor, in bits. -/
def bits (d : Descriptor) : Nat := d.width.bits

/-- S as a number of bits: 1 when signed, else 0 (30_encoding.md R67). -/
def signBits (d : Descriptor) : Nat := if d.signed then 1 else 0

/-- The effective fractional-bit count f of a fixed-point descriptor (30_encoding.md R69). -/
def fracBits (d : Descriptor) : Nat := if d.param = 0 then d.bits / 2 else d.param

/-- The effective mantissa-bit count m of a float descriptor (30_encoding.md R70). -/
def mantBits (d : Descriptor) : Nat := if d.param = 0 then defMant d.width d.signed else d.param

/-- The exponent width e = W - S - m of a float descriptor (30_encoding.md R70). -/
def expBits (d : Descriptor) : Nat := d.bits - d.signBits - d.mantBits

/-- bias = 2^(e-1) - 1 (30_encoding.md R70). -/
def bias (d : Descriptor) : Nat := 2 ^ (d.expBits - 1) - 1

/-- emax = 2^e - 1, the all-ones exponent field (30_encoding.md R70). -/
def emax (d : Descriptor) : Nat := 2 ^ d.expBits - 1

/-- The descriptor is no configuration error: f ≤ W - S when fixed (30_encoding.md R69), and
1 ≤ m ≤ W - S - 1 when float (R70). -/
def valid (d : Descriptor) : Bool :=
  match d.kind with
  | .fixed => decide (d.fracBits + d.signBits ≤ d.bits)
  | .float => decide (1 ≤ d.mantBits ∧ d.mantBits + d.signBits + 1 ≤ d.bits)

end Descriptor

namespace Machine

/-- The integer view of A and B: bits [95:0] (10_state.md R21, R22). -/
def intView (x : Word128) : Word96 := x.extractLsb' 0 96

/-- The storage view of A: the raw word `A[W-1:0]` as a number (10_state.md R21). -/
def rawView (d : Descriptor) (x : Word128) : Nat := x.toNat % 2 ^ d.bits

/-- `sint_W` of a raw word (00_scope.md R9). -/
def signedOf (w raw : Nat) : Int := if 2 ^ (w - 1) ≤ raw then (raw : Int) - 2 ^ w else raw

/-- The integer iv a fixed-point raw word denotes before scaling (41_decompose.md R120). -/
def fixedInt (d : Descriptor) (raw : Nat) : Int := if d.signed then signedOf d.bits raw else raw

/-- The sign s of a float raw word: raw[W-1] when signed, else 0 (41_decompose.md R121). -/
def signField (d : Descriptor) (raw : Nat) : Bool :=
  d.signed && raw / 2 ^ (d.bits - 1) % 2 == 1

/-- The exponent field raw[m+e-1 : m] (41_decompose.md R121). -/
def expField (d : Descriptor) (raw : Nat) : Nat := raw / 2 ^ d.mantBits % 2 ^ d.expBits

/-- The mantissa field raw[m-1 : 0] (41_decompose.md R121). -/
def mantField (d : Descriptor) (raw : Nat) : Nat := raw % 2 ^ d.mantBits

/-- The class of a fixed-point raw word (41_decompose.md R120). -/
def fixedClass (d : Descriptor) (raw : Nat) : NumClass :=
  if fixedInt d raw = 0 then .zero else .fixnz

/-- The class of a float raw word, from its exponent and mantissa fields (41_decompose.md R122). -/
def floatClass (d : Descriptor) (raw : Nat) : NumClass :=
  if expField d raw = 0 then
    if mantField d raw = 0 then .zero else .subnormal
  else if expField d raw = d.emax then
    if mantField d raw = 0 then .infinity else .nan
  else .normal

/-- The class of a raw word under its descriptor (42_recompose.md R148). -/
def classOf (d : Descriptor) (raw : Nat) : NumClass :=
  match d.kind with
  | .fixed => fixedClass d raw
  | .float => floatClass d raw

/-- `Pack(sgn, b, t)` (42_recompose.md R143). -/
def pack (d : Descriptor) (neg : Bool) (b t : Nat) : Nat :=
  (if d.signed && neg then 2 ^ (d.bits - 1) else 0) + b * 2 ^ d.mantBits + t

/-- `Inf(sgn)` = Pack(sgn, emax, 0) (30_encoding.md R74, 42_recompose.md R143). -/
def infinityWord (d : Descriptor) (neg : Bool) : Nat := pack d neg d.emax 0

/-- The canonical NaN: sign 0, exponent emax, only the top mantissa bit set (30_encoding.md R73). -/
def nanWord (d : Descriptor) : Nat := pack d false d.emax (2 ^ (d.mantBits - 1))

end Machine

end Sys2Proof
end

