-- ==== Sys2Proof/Machine/Ops.lean ====
section
/-! DEFINITION. The shared operations: one update per register, the words of the register window
(spec/20_memory.md R41, R44, R46), and the effect of an error (spec/60_exceptions.md R203). WNE has no
memory array (R40) and no return from an error (R208). -/

namespace Sys2Proof.Machine

/-! ### Register updates -/

namespace State

/-- STATUS <- v -/
def withStatus (s : State) (v : Word) : State := { s with status := v }

/-- CMD <- v -/
def withCmd (s : State) (v : Word) : State := { s with cmd := v }

/-- A <- v -/
def withA (s : State) (v : Word128) : State := { s with a := v }

/-- B <- v -/
def withB (s : State) (v : Word128) : State := { s with b := v }

/-- R <- v -/
def withR (s : State) (v : Word128) : State := { s with r := v }

/-- DS <- v -/
def withDs (s : State) (v : BitVec 1) : State := { s with ds := v }

/-- DM <- v -/
def withDm (s : State) (v : Word256) : State := { s with dm := v }

/-- DE <- v -/
def withDe (s : State) (v : Word256) : State := { s with de := v }

/-- The bus events still to be served. -/
def withPending (s : State) (es : List Event) : State := { s with pending := es }

/-- A read of the host is answered with `v`. -/
def reply (s : State) (v : Word) : State := { s with replies := v :: s.replies }

/-- One free value has been taken. -/
def tookFree (s : State) : State := { s with freeCount := s.freeCount + 1 }

end State

/-! ### The register window (20_memory.md R41) -/

/-- The words of the window that belong to a register (20_memory.md R41); `n` is the word's number,
least significant first (R44). -/
inductive RegWord where
  | id
  | status
  | cmd
  | a (n : Fin 4)
  | b (n : Fin 4)
  | rs (n : Fin 4)
  | ds
  | dm (n : Fin 8)
  | de (n : Fin 8)
deriving DecidableEq, Repr

/-- ID, the constant 0x574E0001 (10_state.md R31). Log entry 10. -/
def wneId : Word := 0x574E0001#32

/-- The offset of a register's word (20_memory.md R41). -/
def RegWord.offset : RegWord → BitVec 8
  | .id => 0x00#8
  | .status => 0x04#8
  | .cmd => 0x08#8
  | .a n => BitVec.ofNat 8 (0x10 + 4 * n)
  | .b n => BitVec.ofNat 8 (0x20 + 4 * n)
  | .rs n => BitVec.ofNat 8 (0x30 + 4 * n)
  | .ds => 0x40#8
  | .dm n => BitVec.ofNat 8 (0x50 + 4 * n)
  | .de n => BitVec.ofNat 8 (0x70 + 4 * n)

/-- The register word at an aligned offset, none where the window is reserved (20_memory.md R41). -/
def wordAt (offset : BitVec 8) : Option RegWord :=
  let n := offset.toNat / 4
  if n = 0 then some .id
  else if n = 1 then some .status
  else if n = 2 then some .cmd
  else if n = 3 then none
  else if n < 8 then some (.a (Fin.ofNat 4 (n - 4)))
  else if n < 12 then some (.b (Fin.ofNat 4 (n - 8)))
  else if n < 16 then some (.rs (Fin.ofNat 4 (n - 12)))
  else if n = 16 then some .ds
  else if n < 20 then none
  else if n < 28 then some (.dm (Fin.ofNat 8 (n - 20)))
  else if n < 36 then some (.de (Fin.ofNat 8 (n - 28)))
  else none

/-- Word n of a wide register: bits [32n+31 : 32n] (20_memory.md R41, R44). -/
def getWord {w : Nat} (x : BitVec w) (n : Nat) : Word := x.extractLsb' (32 * n) 32

/-- A wide register with word n replaced and every other bit kept (20_memory.md R46). -/
def setWord {w : Nat} (x : BitVec w) (n : Nat) (v : Word) : BitVec w :=
  (x &&& ~~~(BitVec.setWidth w (BitVec.allOnes 32) <<< (32 * n))) |||
    (BitVec.setWidth w v <<< (32 * n))

/-- The value a register's word reads as (20_memory.md R41); ID is hard-wired (10_state.md R31). -/
def readWord (s : State) : RegWord → Word
  | .id => wneId
  | .status => s.status
  | .cmd => s.cmd
  | .a n => getWord s.a n
  | .b n => getWord s.b n
  | .rs n => getWord s.r n
  | .ds => BitVec.setWidth 32 s.ds
  | .dm n => getWord s.dm n
  | .de n => getWord s.de n

/-- The value an aligned offset reads as; reserved words read 0 (20_memory.md R41). -/
def readWindow (s : State) (offset : BitVec 8) : Word :=
  match wordAt offset with
  | none => 0#32
  | some x => readWord s x

/-- What a host write of `v` stores (20_memory.md R41, R46): ID, STATUS and R are read-only; DS takes
bit 0; the write of CMD stores the word, and Machine/Bus.lean then executes it (10_state.md R30). -/
def storeWord (s : State) (x : RegWord) (v : Word) : State :=
  match x with
  | .id => s
  | .status => s
  | .cmd => s.withCmd v
  | .a n => s.withA (setWord s.a n v)
  | .b n => s.withB (setWord s.b n v)
  | .rs _ => s
  | .ds => s.withDs (v.extractLsb' 0 1)
  | .dm n => s.withDm (setWord s.dm n v)
  | .de n => s.withDe (setWord s.de n v)

/-! ### Errors -/

/-- `raise <Error>(info)`: STATUS takes the error's code and, for REPRESENTATION, the source's class;
every other field of STATUS is 0 and no other register changes (60_exceptions.md R203, R204). -/
def raise (s : State) (err : ErrCode) (sclass : NumClass) : State :=
  s.withStatus (mkStatus err sclass .none)

/-- The end of a command that raised nothing: ERR = NONE and the two classes (10_state.md R28). -/
def complete (s : State) (sclass rclass : NumClass) : State :=
  s.withStatus (mkStatus .none sclass rclass)

end Sys2Proof.Machine
end

