-- ==== Sys2Proof/Machine/Decompose.lean ====
section
/-! DEFINITION. The decomposer and DECOMP (spec/41_decompose.md R120 to R127). -/

namespace Sys2Proof.Machine

/-- A decomposed word: sign, magnitude, power of two and class (41_decompose.md R124, R125). -/
structure Decomposition where
  neg : Bool
  mag : Nat
  exp : Int
  cls : NumClass
deriving DecidableEq, Repr

/-- `Decompose` of a fixed-point word; the exponent is minus the effective count (R124). -/
def decomposeFixed (d : Descriptor) (raw : Nat) : Decomposition :=
  let iv := fixedInt d raw
  { neg := decide (iv < 0), mag := iv.natAbs, exp := -(d.fracBits : Int), cls := fixedClass d raw }

/-- `Decompose` of a float word (R125). -/
def decomposeFloat (d : Descriptor) (raw : Nat) : Decomposition :=
  let cls := floatClass d raw
  match cls with
  | .normal =>
    { neg := signField d raw, mag := mantField d raw + 2 ^ d.mantBits,
      exp := (expField d raw : Int) - d.bias - d.mantBits, cls := cls }
  | .infinity => { neg := signField d raw, mag := 0, exp := 0, cls := cls }
  | .nan => { neg := signField d raw, mag := 0, exp := 0, cls := cls }
  | _ =>
    { neg := signField d raw, mag := mantField d raw,
      exp := 1 - (d.bias : Int) - d.mantBits, cls := cls }

/-- `Decompose(raw, d)` (R124, R125). -/
def decompose (d : Descriptor) (raw : Nat) : Decomposition :=
  match d.kind with
  | .fixed => decomposeFixed d raw
  | .float => decomposeFloat d raw

/-- The decomposition registers take a decomposition: DS the sign, DM the magnitude, DE the 256-bit
two's complement of the power (R126). -/
def writeDecomposition (s : State) (x : Decomposition) : State :=
  ((s.withDs (BitVec.ofBool x.neg)).withDm (BitVec.ofNat 256 x.mag)).withDe (BitVec.ofInt 256 x.exp)

/-- DECOMP: decompose `A[W-1:0]` into DS, DM and DE (R126). -/
def execDecomp (src : Descriptor) (s : State) : Host.Outcome State Fault Refusal :=
  if src.valid then
    let x := decompose src (rawView src s.a)
    .next (complete (writeDecomposition s x) x.cls .none)
  else .next (raise s .config .none)

end Sys2Proof.Machine
end

