-- ==== Sys2Proof/Machine/Rounder.lean ====
section
/-! DEFINITION. The round-half-to-even right shift and RNDSH (spec/43_rounder.md R160 to R162). -/

namespace Sys2Proof.Machine

/-- The number of bits of M in binary, 0 for M = 0 (00_scope.md R9). -/
def bitlen (M : Nat) : Nat := if M = 0 then 0 else M.log2 + 1

/-- `RNE(M, k)` line by line as R160 writes it. -/
def rneRule (M k : Nat) : Nat :=
  if k = 0 then M
  else
    let t := M / 2 ^ k
    let r := M - t * 2 ^ k
    let h := 2 ^ (k - 1)
    if r > h ∨ (r = h ∧ t % 2 = 1) then t + 1 else t

/-- `RNE(M, k)` as the commands compute it: a shift beyond the bits of M gives 0 without forming 2^k
(R160: "`t = 0` and the result is 1 exactly when `M > 2^(k−1)`, else 0"). Log entry 13. -/
def rne (M k : Nat) : Nat := if bitlen M < k then 0 else rneRule M k

/-- RNDSH: DM <- RNE(DM, k), DE <- DE + k modulo 2^256, STATUS <- 0; DS is not touched (R162). -/
def execRndsh (k : Nat) (s : State) : Host.Outcome State Fault Refusal :=
  .next (complete ((s.withDm (BitVec.ofNat 256 (rne s.dm.toNat k))).withDe
    (s.de + BitVec.ofNat 256 k)) .none .none)

end Sys2Proof.Machine
end

