-- ==== Sys2Proof/Machine/Recompose.lean ====
section
/-! DEFINITION. The recomposer, RECOMP and CVT (spec/42_recompose.md R140 to R148). -/

namespace Sys2Proof.Machine

/-- `clamp(v, lo, hi)` (00_scope.md R9). -/
def clamp (v lo hi : Int) : Int := if v < lo then lo else if hi < v then hi else v

/-- The last three lines of `FixTarget`: apply the sign, saturate to the storage range, take the W-bit
pattern (R141). -/
def saturate (d : Descriptor) (neg : Bool) (q : Nat) : Nat :=
  let v : Int := if neg then -(q : Int) else q
  let c : Int :=
    if d.signed then clamp v (-(2 ^ (d.bits - 1))) (2 ^ (d.bits - 1) - 1)
    else clamp v 0 (2 ^ d.bits - 1)
  (c % 2 ^ d.bits).toNat

/-- `M * 2^n`, or 2^W where that product has more than W bits: both saturate alike, and a huge power is
never formed (R141: "when `bitlen(M) + sh > W` the result is the clamp bound"). Log entry 13. -/
def shiftUpCapped (w M n : Nat) : Nat := if w < bitlen M + n then 2 ^ w else M * 2 ^ n

/-- `FixTarget(sgn, M, E, d)` as the commands compute it (R141). Log entry 13. -/
def fixTarget (d : Descriptor) (neg : Bool) (M : Nat) (E : Int) : Nat :=
  if M = 0 then 0
  else
    let sh := E + d.fracBits
    saturate d neg (if 0 ≤ sh then shiftUpCapped d.bits M sh.toNat else rne M (-sh).toNat)

/-- The normal range of `FloatTarget`: m+1 significant bits, with the carry out of the top (R142). -/
def floatNormal (d : Descriptor) (neg : Bool) (M : Nat) (b : Int) : Nat :=
  let m := d.mantBits
  let L := bitlen M
  let q := if m + 1 < L then rne M (L - m - 1) else M * 2 ^ (m + 1 - L)
  if q = 2 ^ (m + 1) then
    if (d.emax : Int) ≤ b + 1 then infinityWord d neg else pack d neg (b + 1).toNat 0
  else pack d neg b.toNat (q - 2 ^ m)

/-- The subnormal range of `FloatTarget`: align to the grid 2^(1 - bias - m), promote when the rounded
mantissa no longer fits (R142). -/
def floatSubnormal (d : Descriptor) (neg : Bool) (M : Nat) (E : Int) : Nat :=
  let m := d.mantBits
  let k : Int := 1 - (d.bias : Int) - m - E
  let q := if 0 ≤ k then rne M k.toNat else M * 2 ^ (-k).toNat
  if q = 2 ^ m then pack d neg 1 0 else pack d neg 0 q

/-- `FloatTarget(sgn, M, E, d)` (R142). -/
def floatTarget (d : Descriptor) (neg : Bool) (M : Nat) (E : Int) : Nat :=
  if neg && !d.signed then 0
  else if M = 0 then pack d neg 0 0
  else
    let b : Int := E + bitlen M - 1 + d.bias
    if (d.emax : Int) ≤ b then infinityWord d neg
    else if 1 ≤ b then floatNormal d neg M b
    else floatSubnormal d neg M E

/-- `Recompose(sgn, M, E, d)` (R140). -/
def recompose (d : Descriptor) (neg : Bool) (M : Nat) (E : Int) : Nat :=
  match d.kind with
  | .fixed => fixTarget d neg M E
  | .float => floatTarget d neg M E

/-- `R <- zext_128(raw)`, STATUS with the class of the written word (R144, R145, R148). -/
def finishFormat (s : State) (sclass : NumClass) (dst : Descriptor) (raw : Nat) : State :=
  complete (s.withR (BitVec.ofNat 128 raw)) sclass (classOf dst raw)

/-- RECOMP: recompose DS, DM and DE into R (R144). -/
def execRecomp (dst : Descriptor) (s : State) : Host.Outcome State Fault Refusal :=
  if dst.valid then
    .next (finishFormat s .none dst (recompose dst (s.ds == 1#1) s.dm.toNat s.de.toInt))
  else .next (raise s .config .none)

/-- `Special(sgn, cls, dd)`: the result for an infinite or NaN source, none where it is a
REPRESENTATION error (R146). -/
def special (dst : Descriptor) (neg : Bool) (cls : NumClass) : Option Nat :=
  match dst.kind with
  | .fixed => none
  | .float =>
    if cls = .nan then some (nanWord dst)
    else if neg && !dst.signed then some 0
    else some (infinityWord dst neg)

/-- The raw result of CVT on a decomposed source, none where it is a REPRESENTATION error (R145). -/
def convert (dst : Descriptor) (x : Decomposition) : Option Nat :=
  if x.cls = .infinity ∨ x.cls = .nan then special dst x.neg x.cls
  else some (recompose dst x.neg x.mag x.exp)

/-- CVT: convert `A[Ws-1:0]` from SFMT to DFMT into R. Errors in the order CONFIG of the source, CONFIG
of the destination, REPRESENTATION (R145; 60_exceptions.md R205). -/
def execCvt (src dst : Descriptor) (s : State) : Host.Outcome State Fault Refusal :=
  if !src.valid then .next (raise s .config .none)
  else if !dst.valid then .next (raise s .config .none)
  else
    let x := decompose src (rawView src s.a)
    match convert dst x with
    | none => .next (raise s .representation x.cls)
    | some raw => .next (finishFormat s x.cls dst raw)

end Sys2Proof.Machine
end

