-- ==== Sys2Proof/Machine/WideInteger.lean ====
section
/-! DEFINITION. NOP and the 96-bit integer commands (spec/40_wide_integer.md R100 to R106). -/

namespace Sys2Proof.Machine

/-- `R <- zext_128(r)`, STATUS <- 0: what every integer command does with its result (R100). -/
def finishInt (s : State) (r : Word96) : State :=
  complete (s.withR (BitVec.setWidth 128 r)) .none .none

/-- NOP: STATUS <- 0 and nothing else (R101). -/
def execNop (s : State) : Host.Outcome State Fault Refusal := .next (complete s .none .none)

/-- IADD: R <- A + B modulo 2^96 (R102). -/
def execIadd (s : State) : Host.Outcome State Fault Refusal :=
  .next (finishInt s (intView s.a + intView s.b))

/-- ISUB: R <- A - B modulo 2^96 (R103). -/
def execIsub (s : State) : Host.Outcome State Fault Refusal :=
  .next (finishInt s (intView s.a - intView s.b))

/-- INEG: R <- -A modulo 2^96 (R104). -/
def execIneg (s : State) : Host.Outcome State Fault Refusal :=
  .next (finishInt s (-(intView s.a)))

/-- IMUL: R <- the low 96 bits of A * B (R105). -/
def execImul (s : State) : Host.Outcome State Fault Refusal :=
  .next (finishInt s (intView s.a * intView s.b))

end Sys2Proof.Machine
end

