-- ==== Sys2Proof/Machine/Dispatch.lean ====
section
/-! DEFINITION. The command dispatch: one arm per command (spec/30_encoding.md R72). -/

namespace Sys2Proof.Machine

def exec (i : Instr) (s : State) : Host.Outcome State Fault Refusal :=
  match i with
  | .nop => Sys2Proof.Machine.execNop s
  | .iadd => Sys2Proof.Machine.execIadd s
  | .isub => Sys2Proof.Machine.execIsub s
  | .ineg => Sys2Proof.Machine.execIneg s
  | .imul => Sys2Proof.Machine.execImul s
  | .decomp src => Sys2Proof.Machine.execDecomp src s
  | .recomp dst => Sys2Proof.Machine.execRecomp dst s
  | .cvt src dst => Sys2Proof.Machine.execCvt src dst s
  | .rndsh k => Sys2Proof.Machine.execRndsh k s

end Sys2Proof.Machine
end

