-- ==== Sys2Proof/Machine/Bus.lean ====
section
/-! DEFINITION. How WNE answers the bus: host accesses (spec/20_memory.md R40 to R48), the execution of a
written command word (spec/30_encoding.md R72), the reset signal (spec/70_reset_and_hazards.md R220,
R222) and a second bus master (spec/60_exceptions.md R212). -/

namespace Sys2Proof.Machine

/-! ### Absolute addresses (20_memory.md R40) -/

/-- The byte address of an offset of the window at `base` = WNE_BASE (R40). Log entry 1. -/
def windowAddress (base : Nat) (offset : BitVec 8) : Nat := base + offset.toNat

/-- The offset a byte address selects, none outside the window: such an access is not WNE's (R40). DESIGN
CHOICE: the first byte alone decides, so an access that runs past the window's end is still WNE's (and is a
BusError by R42), and a base that is no multiple of 256 is answered too. Log entry 1. -/
def windowOffset (base addr : Nat) : Option (BitVec 8) :=
  if base ≤ addr ∧ addr < base + Config.windowBytes then some (BitVec.ofNat 8 (addr - base)) else none

/-- `MemRead(addr, bytes)` as WNE sees it (00_scope.md R10). -/
def memRead (base addr bytes : Nat) : Option Access :=
  (windowOffset base addr).map fun off => .read off (8 * bytes)

/-- `MemWrite(addr, bytes, v)` as WNE sees it (00_scope.md R10). -/
def memWrite (base addr bytes : Nat) (v : Word) : Option Access :=
  (windowOffset base addr).map fun off => .write off (8 * bytes) v

/-! ### Host accesses -/

/-- Only a 32-bit access at a multiple of 4 is served (20_memory.md R42). -/
def servable (offset : BitVec 8) (width : Nat) : Bool := width == 32 && offset.toNat % 4 == 0

/-- `Execute(v)` on the word just written to CMD (30_encoding.md R72): a word that is no command raises
ILLEGAL (60_exceptions.md R201). -/
def executeWord (s : State) (v : Word) : Host.Outcome State Fault Refusal :=
  match decode v with
  | .illegal _ => .next (raise s .illegal .none)
  | .instr i => exec i s

/-- A served write: reserved words ignore it, CMD stores and executes it, any other word stores it or
ignores it (20_memory.md R41, R46, R47). -/
def writeWindow (s : State) (offset : BitVec 8) (v : Word) : Host.Outcome State Fault Refusal :=
  match wordAt offset with
  | none => .next s
  | some .cmd => executeWord (storeWord s .cmd v) v
  | some x => .next (storeWord s x v)

/-- One host access (20_memory.md R42, R46, R47). -/
def serve (s : State) : Access → Host.Outcome State Fault Refusal
  | .read offset width =>
    if servable offset width then .next (s.reply (readWindow s offset))
    else .fault (.busError offset width)
  | .write offset width v =>
    if servable offset width then writeWindow s offset v
    else .fault (.busError offset width)

/-! ### Other events -/

/-- Every register takes its reset value and no command runs (70_reset_and_hazards.md R220). What is
still on the bus, what has been answered and the count of free values are not WNE's registers and stay
(log entry 8). -/
def resetRegisters (s : State) : State :=
  { State.reset with pending := s.pending, replies := s.replies, freeCount := s.freeCount }

/-- The reset signal. A read it cuts short returns a free value; a write it cuts short leaves the reset
state whether or not it happened (R222; 93 I4). Log entry 8. -/
def applyReset (s : State) : Option Access → State
  | none => resetRegisters s
  | some (.read _ _) => ((resetRegisters s).reply (Config.cutRead s.freeCount)).tookFree
  | some (.write _ _ _) => resetRegisters s

/-- A second bus master has acted: every register it could have written holds a free value
(60_exceptions.md R212; 93 I3). Log entry 7. -/
def interfere (s : State) : State :=
  ({ s with
      status := Config.otherStatus s.freeCount
      cmd := Config.otherCmd s.freeCount
      a := Config.otherA s.freeCount
      b := Config.otherB s.freeCount
      r := Config.otherR s.freeCount
      ds := Config.otherDs s.freeCount
      dm := Config.otherDm s.freeCount
      de := Config.otherDe s.freeCount }).tookFree

/-- One event of the bus. -/
def handle (s : State) : Event → Host.Outcome State Fault Refusal
  | .access a => serve s a
  | .reset cut => .next (applyReset s cut)
  | .otherMaster => .next (interfere s)

end Sys2Proof.Machine
end

