-- ==== Sys2Proof/Machine/Step.lean ====
section
/-! DEFINITION. One step of WNE: the oldest event of the bus, alone and to its end
(spec/20_memory.md R48, spec/00_scope.md R11). -/

namespace Sys2Proof.Machine

/-- WNE takes the oldest pending event and completes it; with none it is idle and holds its registers
(60_exceptions.md R210). Log entries 2 and 4. -/
def step (s : State) : Host.Outcome State Fault Refusal :=
  match s.pending with
  | [] => .next s
  | e :: rest => handle (s.withPending rest) e

/-- The command word the low `nbits` bits of `w` stand for, as the host's next access: a 32-bit write of
it to CMD (10_state.md R30). WNE fetches nothing (20_memory.md R51); a command comes to run only so
(log entry 5). -/
def State.withFetchWord (s : State) (nbits w : Nat) : State :=
  s.withPending
    (.access (.write RegWord.cmd.offset 32 (BitVec.ofNat 32 (w % 2 ^ nbits))) :: s.pending)

end Sys2Proof.Machine
end

