-- ==== Sys2Proof/Safety.lean ====
section
/-! DEFINITION. What a safe run of WNE is: one host, served accesses, and a STATUS that always reports the
command word CMD holds (spec/10_state.md R28 to R30, spec/60_exceptions.md R200 to R207, R212). -/

namespace Sys2Proof.Machine

/-- Exactly one bus master uses WNE (60_exceptions.md R212). -/
abbrev SingleHost (s : State) : Prop := Event.otherMaster ∉ s.pending

/-- An event that is no access, or an access WNE serves (20_memory.md R42). -/
def Event.servable : Event → Bool
  | .access (.read offset width) => Machine.servable offset width
  | .access (.write offset width _) => Machine.servable offset width
  | .reset _ => true
  | .otherMaster => true

/-- Every pending access is one WNE serves. -/
abbrev BusSafe (s : State) : Prop := ∀ e ∈ s.pending, e.servable = true

/-- The classes a word of a format can have (41_decompose.md R120, R122). -/
def classFits (d : Descriptor) (c : NumClass) : Bool :=
  match d.kind, c with
  | .fixed, .zero => true
  | .fixed, .fixnz => true
  | .float, .zero => true
  | .float, .subnormal => true
  | .float, .normal => true
  | .float, .infinity => true
  | .float, .nan => true
  | _, _ => false

/-- The values STATUS can have after a command (R28: every command writes all of STATUS). -/
def StatusAfter (i : Instr) (status : Word) : Prop :=
  match i with
  | .nop => status = mkStatus .none .none .none
  | .iadd => status = mkStatus .none .none .none
  | .isub => status = mkStatus .none .none .none
  | .ineg => status = mkStatus .none .none .none
  | .imul => status = mkStatus .none .none .none
  | .rndsh _ => status = mkStatus .none .none .none
  | .decomp src =>
    if src.valid then ∃ c, classFits src c ∧ status = mkStatus .none c .none
    else status = mkStatus .config .none .none
  | .recomp dst =>
    if dst.valid then ∃ c, classFits dst c ∧ status = mkStatus .none .none c
    else status = mkStatus .config .none .none
  | .cvt src dst =>
    if src.valid && dst.valid then
      (∃ c c', classFits src c ∧ classFits dst c' ∧ status = mkStatus .none c c') ∨
      (src.kind = .float ∧ dst.kind = .fixed ∧
        ∃ c, (c = .infinity ∨ c = .nan) ∧ status = mkStatus .representation c .none)
    else status = mkStatus .config .none .none

/-- STATUS reports the word CMD holds: ILLEGAL where it is no command, else a value that command can
leave (R30, R201, R207). -/
def StatusReportsCmd (s : State) : Prop :=
  match decode s.cmd with
  | .illegal _ => s.status = mkStatus .illegal .none .none
  | .instr i => StatusAfter i s.status

/-- STATUS holds an error code and class codes that are produced, and its reserved bits are 0
(10_state.md R28, R29; 60_exceptions.md R200). -/
abbrev StatusLegal (status : Word) : Prop :=
  (statusErr status).toNat ≤ 3 ∧ (statusSclass status).toNat ≤ 6 ∧ (statusRclass status).toNat ≤ 6 ∧
  status.extractLsb' 7 1 = 0#1 ∧ status.extractLsb' 11 21 = 0#21

/-- The invariant of a WNE with one host. -/
def Inv (s : State) : Prop := SingleHost s ∧ StatusLegal s.status ∧ StatusReportsCmd s

end Sys2Proof.Machine
end

