-- ==== Sys2Proof/Certificates/Slice0/Reference.lean ====
section
/-! DEFINITION. The spec's own formulas, written a second time for the statements: over the bits of a
register and over unbounded numbers, with no shortcut of the model's (spec/30_encoding.md R66 to R74,
spec/41_decompose.md R120 to R123, spec/42_recompose.md R141 to R143, spec/43_rounder.md R160). -/

namespace Sys2Proof.Reference

open Sys2Proof.Machine

/-- The conditions (a), (b) and (c) under which a command word is illegal (30_encoding.md R66). -/
abbrev IllegalEncoding (w : Word) : Prop :=
  let v := w.toNat
  let op := v % 32
  -- (a) reserved opcodes
  (op = 0x05 ∨ op = 0x06 ∨ op = 0x07 ∨ 0x0C ≤ op) ∨
  -- (b) a must-be-zero bit of formats N, X and S
  (op ≤ 0x04 ∧ v / 2 ^ 5 ≠ 0) ∨
  (op = 0x08 ∧ v / 2 ^ 18 ≠ 0) ∨
  (op = 0x09 ∧ (v / 2 ^ 31 ≠ 0 ∨ v / 2 ^ 5 % 2 ^ 13 ≠ 0)) ∨
  (op = 0x0A ∧ v / 2 ^ 31 ≠ 0) ∨
  (op = 0x0B ∧ v / 2 ^ 14 ≠ 0) ∨
  -- (c) a reserved width code in a descriptor the command uses
  ((op = 0x08 ∨ op = 0x0A) ∧ 6 ≤ v / 2 ^ 6 % 8) ∨
  ((op = 0x09 ∨ op = 0x0A) ∧ 6 ≤ v / 2 ^ 19 % 8)

/-- The width code of a width (30_encoding.md R68). -/
def widthCode : Width → Nat
  | .w8 => 0
  | .w16 => 1
  | .w32 => 2
  | .w64 => 3
  | .w96 => 4
  | .w128 => 5

/-- `d` is the descriptor whose 13 bits start at bit `at` of a word: K, WC, S, P (R63, R67). -/
abbrev ReadsDescriptor (d : Descriptor) (w : Word) (pos : Nat) : Prop :=
  (d.kind = .float ↔ w.getLsbD pos = true) ∧
  widthCode d.width = w.toNat / 2 ^ (pos + 1) % 8 ∧
  d.signed = w.getLsbD (pos + 4) ∧
  d.param = w.toNat / 2 ^ (pos + 5) % 256

/-- A descriptor that is a configuration error: fixed with f > W - S, float with m > W - S - 1
(30_encoding.md R69, R70; 60_exceptions.md R202). -/
def InvalidFormat (d : Descriptor) : Prop :=
  let W := d.width.bits
  let S := if d.signed then 1 else 0
  match d.kind with
  | .fixed => W - S < (if d.param = 0 then W / 2 else d.param)
  | .float => W - S - 1 < (if d.param = 0 then defMant d.width d.signed else d.param)

/-- A command uses a descriptor that is a configuration error (60_exceptions.md R202). -/
def UsesInvalidFormat : Instr → Prop
  | .decomp src => InvalidFormat src
  | .recomp dst => InvalidFormat dst
  | .cvt src dst => InvalidFormat src ∨ InvalidFormat dst
  | _ => False

/-- iv of a fixed-point word: `sint_W` or `uint` of A[W-1:0] (41_decompose.md R120). -/
def fixedInteger (d : Descriptor) (x : Word128) : Int :=
  if d.signed then (x.extractLsb' 0 d.bits).toInt else (x.extractLsb' 0 d.bits).toNat

/-- The sign bit raw[W-1] of a signed float word, 0 for unsigned (41_decompose.md R121). -/
def floatSign (d : Descriptor) (x : Word128) : Bool := d.signed && x.getLsbD (d.bits - 1)

/-- The exponent field raw[m+e-1 : m] (41_decompose.md R121). -/
def floatExp (d : Descriptor) (x : Word128) : Nat := (x.extractLsb' d.mantBits d.expBits).toNat

/-- The mantissa field raw[m-1 : 0] (41_decompose.md R121). -/
def floatMant (d : Descriptor) (x : Word128) : Nat := (x.extractLsb' 0 d.mantBits).toNat

/-- The class of a storage word (41_decompose.md R120, R122). -/
def wordClass (d : Descriptor) (x : Word128) : NumClass :=
  match d.kind with
  | .fixed => if fixedInteger d x = 0 then .zero else .fixnz
  | .float =>
    if floatExp d x = 0 ∧ floatMant d x = 0 then .zero
    else if floatExp d x = 0 then .subnormal
    else if floatExp d x = d.emax ∧ floatMant d x = 0 then .infinity
    else if floatExp d x = d.emax then .nan
    else .normal

/-- The class is Infinity or NaN. -/
abbrev NonFinite (c : NumClass) : Prop := c = .infinity ∨ c = .nan

/-- The number a finite storage word denotes (41_decompose.md R120, R123). -/
def wordValue (d : Descriptor) (x : Word128) : ℚ :=
  match d.kind with
  | .fixed => (fixedInteger d x : ℚ) * (2 : ℚ) ^ (-(d.fracBits : Int))
  | .float =>
    (if floatSign d x then (-1 : ℚ) else 1) *
    (if floatExp d x = 0 then (floatMant d x : ℚ) * (2 : ℚ) ^ (1 - (d.bias : Int) - d.mantBits)
     else ((2 : ℚ) ^ d.mantBits + floatMant d x) *
       (2 : ℚ) ^ ((floatExp d x : Int) - d.bias - d.mantBits))

/-- The number sign, magnitude and power denote (10_state.md R27). -/
def exactValue (neg : Bool) (M : Nat) (E : Int) : ℚ :=
  (if neg then (-1 : ℚ) else 1) * M * (2 : ℚ) ^ E

/-- `RNE(M, k)` (43_rounder.md R160). -/
def rne (M k : Nat) : Nat :=
  if k = 0 then M
  else if M - M / 2 ^ k * 2 ^ k > 2 ^ (k - 1) ∨
      (M - M / 2 ^ k * 2 ^ k = 2 ^ (k - 1) ∧ M / 2 ^ k % 2 = 1) then M / 2 ^ k + 1
  else M / 2 ^ k

/-- `FixTarget` over unbounded integers (42_recompose.md R141). -/
def fixTarget (d : Descriptor) (neg : Bool) (M : Nat) (E : Int) : Nat :=
  let sh := E + d.fracBits
  let q : Int := if 0 ≤ sh then (M : Int) * 2 ^ sh.toNat else rne M (-sh).toNat
  let v := if neg then -q else q
  let lo : Int := if d.signed then -2 ^ (d.bits - 1) else 0
  let hi : Int := if d.signed then 2 ^ (d.bits - 1) - 1 else 2 ^ d.bits - 1
  if M = 0 then 0 else (max lo (min hi v) % 2 ^ d.bits).toNat

/-- `Pack` (42_recompose.md R143). -/
def pack (d : Descriptor) (neg : Bool) (b t : Nat) : Nat :=
  (if d.signed = true ∧ neg = true then 2 ^ (d.bits - 1) else 0) + b * 2 ^ d.mantBits + t

/-- `FloatTarget` over unbounded integers (42_recompose.md R142). -/
def floatTarget (d : Descriptor) (neg : Bool) (M : Nat) (E : Int) : Nat :=
  let m := d.mantBits
  let L := bitlen M
  let b : Int := E + L - 1 + d.bias
  let qn := if L > m + 1 then rne M (L - m - 1) else M * 2 ^ (m + 1 - L)
  let k : Int := 1 - (d.bias : Int) - m - E
  let qs := if k ≥ 0 then rne M k.toNat else M * 2 ^ (-k).toNat
  if neg = true ∧ d.signed = false then 0
  else if M = 0 then pack d neg 0 0
  else if b ≥ d.emax then pack d neg d.emax 0
  else if b ≥ 1 then
    if qn = 2 ^ (m + 1) then
      if b + 1 ≥ d.emax then pack d neg d.emax 0 else pack d neg (b + 1).toNat 0
    else pack d neg b.toNat (qn - 2 ^ m)
  else if qs = 2 ^ m then pack d neg 1 0
  else pack d neg 0 qs

/-- `Recompose` (42_recompose.md R140). -/
def recompose (d : Descriptor) (neg : Bool) (M : Nat) (E : Int) : Nat :=
  match d.kind with
  | .fixed => fixTarget d neg M E
  | .float => floatTarget d neg M E

/-- The canonical NaN `emax · 2^m + 2^(m-1)` (30_encoding.md R73). -/
def canonicalNan (d : Descriptor) : Nat := d.emax * 2 ^ d.mantBits + 2 ^ (d.mantBits - 1)

/-- The words of the window as R41 lists them, by byte offset: word n of a register is its bits
[32n+31 : 32n]; reserved offsets read 0. -/
def windowValue (s : State) (off : Nat) : Nat :=
  if off = 0x00 then 0x574E0001
  else if off = 0x04 then s.status.toNat
  else if off = 0x08 then s.cmd.toNat
  else if 0x10 ≤ off ∧ off ≤ 0x1C then s.a.toNat / 2 ^ (32 * ((off - 0x10) / 4)) % 2 ^ 32
  else if 0x20 ≤ off ∧ off ≤ 0x2C then s.b.toNat / 2 ^ (32 * ((off - 0x20) / 4)) % 2 ^ 32
  else if 0x30 ≤ off ∧ off ≤ 0x3C then s.r.toNat / 2 ^ (32 * ((off - 0x30) / 4)) % 2 ^ 32
  else if off = 0x40 then s.ds.toNat
  else if 0x50 ≤ off ∧ off ≤ 0x6C then s.dm.toNat / 2 ^ (32 * ((off - 0x50) / 4)) % 2 ^ 32
  else if 0x70 ≤ off ∧ off ≤ 0x8C then s.de.toNat / 2 ^ (32 * ((off - 0x70) / 4)) % 2 ^ 32
  else 0

/-- Every register has the reset value of R20 (10_state.md R20; 70_reset_and_hazards.md R220). -/
abbrev RegistersAtReset (t : State) : Prop :=
  t.status = 0#32 ∧ t.cmd = 0#32 ∧ t.a = 0#128 ∧ t.b = 0#128 ∧ t.r = 0#128 ∧
  t.ds = 0#1 ∧ t.dm = 0#256 ∧ t.de = 0#256 ∧ readWord t .id = 0x574E0001#32

/-- `t` is the wide register `x` after the host stored `v` at word n: the bits of word n are those of `v`
and every other bit is kept (20_memory.md R46). -/
def WordStored {w : Nat} (x t : BitVec w) (n : Nat) (v : Word) : Prop :=
  ∀ k, k < w →
    t.getLsbD k = if 32 * n ≤ k ∧ k < 32 * n + 32 then v.getLsbD (k - 32 * n) else x.getLsbD k

end Sys2Proof.Reference
end

