-- ==== Sys2Proof/Machine/Assembler.lean ====
section
/-! DEFINITION. The assembler syntax of the commands (spec/30_encoding.md R77): reading a line of text and
writing one. Text is a list of characters. -/

namespace Sys2Proof.Machine

/-- A text cut at every `c`. -/
def cutAt (c : Char) : List Char → List (List Char)
  | [] => [[]]
  | x :: xs =>
    if x = c then [] :: cutAt c xs
    else
      match cutAt c xs with
      | [] => [[x]]
      | y :: ys => (x :: y) :: ys

/-- A text without its leading spaces. -/
def skipSpaces : List Char → List Char
  | ' ' :: xs => skipSpaces xs
  | xs => xs

/-- The value of decimal digits read after `acc`, none where a character is no digit. -/
def digitsFrom (acc : Nat) : List Char → Option Nat
  | [] => some acc
  | x :: xs =>
    if 48 ≤ x.toNat ∧ x.toNat ≤ 57 then digitsFrom (10 * acc + (x.toNat - 48)) xs else none

/-- A decimal number of at least one digit. DESIGN CHOICE: leading zeros are read. Log entry 18. -/
def parseDecimal : List Char → Option Nat
  | [] => none
  | xs => digitsFrom 0 xs

/-- The width written W (R77: one of 8, 16, 32, 64, 96, 128). -/
def widthOfBits (n : Nat) : Option Width :=
  if n = 8 then some .w8
  else if n = 16 then some .w16
  else if n = 32 then some .w32
  else if n = 64 then some .w64
  else if n = 96 then some .w96
  else if n = 128 then some .w128
  else none

/-- `<kind>`: `fix` or `flt` (R77). -/
def parseKind : List Char → Option Kind
  | ['f', 'i', 'x'] => some .fixed
  | ['f', 'l', 't'] => some .float
  | _ => none

/-- `<sign><W>`: `s` or `u`, then the width (R77). -/
def parseSignWidth : List Char → Option (Bool × Width)
  | 's' :: ds => ((parseDecimal ds).bind widthOfBits).map fun w => (true, w)
  | 'u' :: ds => ((parseDecimal ds).bind widthOfBits).map fun w => (false, w)
  | _ => none

/-- `<P>`: decimal 0 to 255 (R77). -/
def parseParam (ds : List Char) : Option Nat :=
  (parseDecimal ds).bind fun p => if p < 256 then some p else none

/-- The descriptor of its parts. -/
def buildFormat (kind : Option Kind) (sw : Option (Bool × Width)) (param : Option Nat) :
    Option Descriptor :=
  match kind, sw, param with
  | some k, some x, some p => some { kind := k, width := x.2, signed := x.1, param := p }
  | _, _, _ => none

/-- `<kind>.<sign><W>[.<P>]`; an omitted `.<P>` means P = 0 (R77). -/
def parseFormat (t : List Char) : Option Descriptor :=
  match cutAt '.' t with
  | [k, sw] => buildFormat (parseKind k) (parseSignWidth sw) (some 0)
  | [k, sw, p] => buildFormat (parseKind k) (parseSignWidth sw) (parseParam p)
  | _ => none

/-- `<srcfmt>, <dstfmt>` (R77). DESIGN CHOICE: R77 writes the separator as a comma and one space; a comma
followed by no space or by several is read too, a space before the comma is refused. Log entry 18. -/
def parseFormats (t : List Char) : Option (Descriptor × Descriptor) :=
  match cutAt ',' t with
  | [x, y] =>
    match parseFormat x, parseFormat (skipSpaces y) with
    | some src, some dst => some (src, dst)
    | _, _ => none
  | _ => none

/-- A command without operands. -/
def parsePlain (operands : List Char) (i : Instr) : Option Instr :=
  if operands = [] then some i else none

/-- One command line: a mnemonic, then its operands (R77). DESIGN CHOICE: several spaces before the first
operand are read, and no comment, leading space or trailing space is. Log entry 18. -/
def parseCommand : List Char → Option Instr
  | 'n' :: 'o' :: 'p' :: t => parsePlain t .nop
  | 'i' :: 'a' :: 'd' :: 'd' :: t => parsePlain t .iadd
  | 'i' :: 's' :: 'u' :: 'b' :: t => parsePlain t .isub
  | 'i' :: 'n' :: 'e' :: 'g' :: t => parsePlain t .ineg
  | 'i' :: 'm' :: 'u' :: 'l' :: t => parsePlain t .imul
  | 'd' :: 'e' :: 'c' :: 'o' :: 'm' :: 'p' :: ' ' :: t => (parseFormat (skipSpaces t)).map .decomp
  | 'r' :: 'e' :: 'c' :: 'o' :: 'm' :: 'p' :: ' ' :: t => (parseFormat (skipSpaces t)).map .recomp
  | 'c' :: 'v' :: 't' :: ' ' :: t => (parseFormats (skipSpaces t)).map fun x => .cvt x.1 x.2
  | 'r' :: 'n' :: 'd' :: 's' :: 'h' :: ' ' :: t =>
    (parseDecimal (skipSpaces t)).bind fun k => if k < 512 then some (.rndsh k) else none
  | _ => none

/-- The text of a number in decimal. -/
def decimalText (n : Nat) : List Char := Nat.toDigits 10 n

/-- The text of a format; P = 0 is left out (R77). -/
def formatText (d : Descriptor) : List Char :=
  (match d.kind with
    | .fixed => ['f', 'i', 'x']
    | .float => ['f', 'l', 't']) ++
  ['.', if d.signed then 's' else 'u'] ++ decimalText d.bits ++
  (if d.param = 0 then [] else '.' :: decimalText d.param)

/-- The text of a command (R77). -/
def commandText : Instr → List Char
  | .nop => ['n', 'o', 'p']
  | .iadd => ['i', 'a', 'd', 'd']
  | .isub => ['i', 's', 'u', 'b']
  | .ineg => ['i', 'n', 'e', 'g']
  | .imul => ['i', 'm', 'u', 'l']
  | .decomp src => ['d', 'e', 'c', 'o', 'm', 'p', ' '] ++ formatText src
  | .recomp dst => ['r', 'e', 'c', 'o', 'm', 'p', ' '] ++ formatText dst
  | .cvt src dst => ['c', 'v', 't', ' '] ++ formatText src ++ [',', ' '] ++ formatText dst
  | .rndsh k => ['r', 'n', 'd', 's', 'h', ' '] ++ decimalText k

end Sys2Proof.Machine
end

