-- ==== Sys2Proof/Certificates/Slice0/Obligations.lean ====
section
/-! DEFINITION. The statements about WNE, each formalising rules of spec/. -/

open Sys2Proof Sys2Proof.Machine

/-! ### Encoding -/

/-- R62 to R68: the word the field tables give a well-formed command decodes to that command, with every
operand at every value its field admits. -/
def Obligations.DecodeInvertsEncode : Prop :=
  ∀ i : Instr, i.wellFormed = true → decode (encode i) = .instr i

/-- R60 to R68: a word has one meaning, and the command it decodes to encodes to that very word. -/
def Obligations.EncodeInvertsDecode : Prop :=
  ∀ (w : Word) (i : Instr), decode w = .instr i → i.wellFormed = true ∧ encode i = w

/-- R66, R201: a word written to CMD that meets (a), (b) or (c) raises ILLEGAL: CMD keeps the word,
STATUS is {ERR = 1} and nothing else changes; every other word is a command. -/
def Obligations.IllegalEncodingRaisesIllegal : Prop :=
  ∀ w : Word,
    (Reference.IllegalEncoding w →
      ∀ (s : State) (rest : List Event), s.pending = .access (.write 0x08#8 32 w) :: rest →
        step s = .next { s with pending := rest, cmd := w, status := 0x00000001#32 }) ∧
    (¬ Reference.IllegalEncoding w → ∃ i, decode w = .instr i)

/-- R62, R63, R64: the fields of a decoded command are the spec's bits of its word, and the bits its
format marks "must be 0" are 0. -/
def Obligations.DecodedFieldsAreTheFormatsBits : Prop :=
  ∀ (w : Word) (i : Instr), decode w = .instr i →
    match i with
    | .nop => w.toNat = 0x00
    | .iadd => w.toNat = 0x01
    | .isub => w.toNat = 0x02
    | .ineg => w.toNat = 0x03
    | .imul => w.toNat = 0x04
    | .decomp src =>
      w.toNat % 32 = 0x08 ∧ w.toNat / 2 ^ 18 = 0 ∧ Reference.ReadsDescriptor src w 5
    | .recomp dst =>
      w.toNat % 32 = 0x09 ∧ w.toNat / 2 ^ 31 = 0 ∧ w.toNat / 2 ^ 5 % 2 ^ 13 = 0 ∧
      Reference.ReadsDescriptor dst w 18
    | .cvt src dst =>
      w.toNat % 32 = 0x0A ∧ w.toNat / 2 ^ 31 = 0 ∧
      Reference.ReadsDescriptor src w 5 ∧ Reference.ReadsDescriptor dst w 18
    | .rndsh k => w.toNat % 32 = 0x0B ∧ w.toNat / 2 ^ 14 = 0 ∧ k = w.toNat / 2 ^ 5 % 2 ^ 9

/-- R65: the exact match values of the nine commands. -/
def Obligations.WordsMatchTheOpcodeTable : Prop :=
  ∀ w : Word,
    (decode w = .instr .nop ↔ w = 0x00000000#32) ∧
    (decode w = .instr .iadd ↔ w = 0x00000001#32) ∧
    (decode w = .instr .isub ↔ w = 0x00000002#32) ∧
    (decode w = .instr .ineg ↔ w = 0x00000003#32) ∧
    (decode w = .instr .imul ↔ w = 0x00000004#32) ∧
    ((∃ src, decode w = .instr (.decomp src)) ↔
      w &&& 0xFFFC001F#32 = 0x00000008#32 ∧ w.toNat / 2 ^ 6 % 8 ≤ 5) ∧
    ((∃ dst, decode w = .instr (.recomp dst)) ↔
      w &&& 0x8003FFFF#32 = 0x00000009#32 ∧ w.toNat / 2 ^ 19 % 8 ≤ 5) ∧
    ((∃ src dst, decode w = .instr (.cvt src dst)) ↔
      w &&& 0x8000001F#32 = 0x0000000A#32 ∧ w.toNat / 2 ^ 6 % 8 ≤ 5 ∧ w.toNat / 2 ^ 19 % 8 ≤ 5) ∧
    ((∃ k, decode w = .instr (.rndsh k)) ↔ w &&& 0xFFFFC01F#32 = 0x0000000B#32)

/-- R77 and the words of 95_test_vectors.md: a word of every format decodes to the command it stands
for. -/
def Obligations.WrittenOutWordsDecode : Prop :=
  decode 0b00000000000000000000000000000001#32 = .instr .iadd ∧
  decode 0b00000000000000000010101001101000#32 = .instr (.decomp ⟨.float, .w16, true, 10⟩) ∧
  decode 0b00001000010100000000000000001001#32 = .instr (.recomp ⟨.fixed, .w32, true, 16⟩) ∧
  decode 0b00001000010100001101001011101010#32 =
    .instr (.cvt ⟨.float, .w64, true, 52⟩ ⟨.fixed, .w32, true, 16⟩) ∧
  decode 0b00000000000000000000000101001011#32 = .instr (.rndsh 10)

/-- R77: the text of a well-formed command assembles to that command. -/
def Obligations.AssemblerReadsCommandText : Prop :=
  ∀ i : Instr, i.wellFormed = true → parseCommand (commandText i) = some i

/-- R67 to R70: the descriptors that are legal per width: P from 0 to W - S when fixed, from 0 to
W - S - 1 when float. -/
def Obligations.LegalParametersPerWidth : Prop :=
  ∀ d : Descriptor,
    (d.kind = .fixed → (d.valid = true ↔ d.param ≤ d.bits - (if d.signed then 1 else 0))) ∧
    (d.kind = .float → (d.valid = true ↔ d.param + 1 ≤ d.bits - (if d.signed then 1 else 0)))

/-- R70, R71: the default mantissa bits of every width, and the exponent width, bias and emax a float
descriptor derives. -/
def Obligations.DefaultMantissaTable : Prop :=
  (defMant .w8 true = 3 ∧ defMant .w8 false = 4 ∧ defMant .w16 true = 10 ∧ defMant .w16 false = 11 ∧
   defMant .w32 true = 23 ∧ defMant .w32 false = 24 ∧ defMant .w64 true = 52 ∧
   defMant .w64 false = 53 ∧ defMant .w96 true = 80 ∧ defMant .w96 false = 81 ∧
   defMant .w128 true = 112 ∧ defMant .w128 false = 113) ∧
  (∀ (w : Width) (sg : Bool), (Descriptor.mk .float w sg 0).mantBits = defMant w sg ∧
    (Descriptor.mk .float w sg 0).valid = true ∧
    (Descriptor.mk .float w sg 0).expBits =
      (match w with | .w8 => 4 | .w16 => 5 | .w32 => 8 | .w64 => 11 | .w96 => 15 | .w128 => 15)) ∧
  (∀ d : Descriptor, d.bias = 2 ^ (d.expBits - 1) - 1 ∧ d.emax = 2 ^ d.expBits - 1)

/-! ### Bus events -/

/-- R30, R72: a write of a command word to CMD stores the word and runs the command it decodes to, on
the registers as they stand. -/
def Obligations.CommandWriteRunsDecoded : Prop :=
  ∀ (s : State) (w : Word) (i : Instr) (rest : List Event),
    s.pending = .access (.write 0x08#8 32 w) :: rest → decode w = .instr i →
    step s = exec i { s with pending := rest, cmd := w }

/-- R42: BusError is the answer to exactly the accesses that are not 32 bits wide at a multiple of 4, and
the only fault. -/
def Obligations.BusErrorExactlyWhenNotServed : Prop :=
  ∀ (s : State) (f : Fault),
    step s = .fault f ↔
      ∃ (off : BitVec 8) (width : Nat) (rest : List Event),
        (s.pending = .access (.read off width) :: rest ∨
          ∃ v, s.pending = .access (.write off width v) :: rest) ∧
        (width ≠ 32 ∨ off.toNat % 4 ≠ 0) ∧ f = .busError off width

/-- 93_implementation_defined.md: every command on every register value is fully specified, so every
command answers a next state. -/
def Obligations.EveryCommandCompletes : Prop :=
  ∀ (i : Instr) (s : State), ∃ t, exec i s = .next t

/-- R41, R46: a served read returns the word the register map gives and changes no register. -/
def Obligations.ReadsReturnTheRegisterMap : Prop :=
  ∀ (s : State) (off : BitVec 8) (rest : List Event),
    s.pending = .access (.read off 32) :: rest → off.toNat % 4 = 0 →
    step s = .next { s with
      pending := rest
      replies := BitVec.ofNat 32 (Reference.windowValue s off.toNat) :: s.replies }

/-- R41, R46: a served write to a word of A, B, DM or DE stores the value in that word alone, one to DS
stores bit 0, and one to ID, STATUS, R or a reserved word changes nothing. -/
def Obligations.WritesStoreTheirWordOnly : Prop :=
  ∀ (s : State) (off : BitVec 8) (v : Word) (rest : List Event),
    s.pending = .access (.write off 32 v) :: rest → off.toNat % 4 = 0 →
    ((off.toNat ≤ 0x04 ∨ off.toNat = 0x0C ∨ (0x30 ≤ off.toNat ∧ off.toNat ≤ 0x3C) ∨
        (0x44 ≤ off.toNat ∧ off.toNat ≤ 0x4C) ∨ 0x90 ≤ off.toNat) →
      step s = .next { s with pending := rest }) ∧
    (0x10 ≤ off.toNat ∧ off.toNat ≤ 0x1C → ∃ x,
      Reference.WordStored s.a x ((off.toNat - 0x10) / 4) v ∧
      step s = .next { s with pending := rest, a := x }) ∧
    (0x20 ≤ off.toNat ∧ off.toNat ≤ 0x2C → ∃ x,
      Reference.WordStored s.b x ((off.toNat - 0x20) / 4) v ∧
      step s = .next { s with pending := rest, b := x }) ∧
    (off.toNat = 0x40 →
      step s = .next { s with pending := rest, ds := BitVec.ofBool (v.getLsbD 0) }) ∧
    (0x50 ≤ off.toNat ∧ off.toNat ≤ 0x6C → ∃ x,
      Reference.WordStored s.dm x ((off.toNat - 0x50) / 4) v ∧
      step s = .next { s with pending := rest, dm := x }) ∧
    (0x70 ≤ off.toNat ∧ off.toNat ≤ 0x8C → ∃ x,
      Reference.WordStored s.de x ((off.toNat - 0x70) / 4) v ∧
      step s = .next { s with pending := rest, de := x })

/-- R30, R46, R48: a read right after a write returns the word written, at CMD (whatever command it was)
and at every word of A, B, DM and DE. -/
def Obligations.ReadBackReturnsTheWordWritten : Prop :=
  ∀ (s : State) (off : BitVec 8) (v : Word) (rest : List Event),
    s.pending = .access (.write off 32 v) :: .access (.read off 32) :: rest → off.toNat % 4 = 0 →
    (off.toNat = 0x08 ∨ (0x10 ≤ off.toNat ∧ off.toNat ≤ 0x2C) ∨
      (0x50 ≤ off.toNat ∧ off.toNat ≤ 0x8C)) →
    ∃ t u, step s = .next t ∧ step t = .next u ∧ u.replies = v :: s.replies ∧ u.pending = rest

/-- A byte address selects its offset from the base inside the 256 bytes from it, and none outside them.
For a base that is a multiple of 256 this is R40's window. The model's choice (DESIGN CHOICE, log entry 1):
the statement covers every other base too, which R40 does not admit. It speaks of addresses only: that the
first byte of an access decides whether the access is WNE's is also the model's choice (log entry 1), and
nothing is stated about it here. -/
def Obligations.WindowIs256BytesFromTheBase : Prop :=
  ∀ base addr : Nat,
    (∀ off, windowOffset base addr = some off ↔ addr = base + off.toNat) ∧
    (windowOffset base addr = none ↔ addr < base ∨ base + 256 ≤ addr)

/-- R220: the state after reset, and the state the reset signal leaves, have every register at its reset
value and ID at its constant: no command has run. -/
def Obligations.ResetGivesEveryRegisterItsResetValue : Prop :=
  Reference.RegistersAtReset State.reset ∧
  ∀ (s : State) (cut : Option Access) (rest : List Event), s.pending = .reset cut :: rest →
    ∃ t, step s = .next t ∧ Reference.RegistersAtReset t

/-- R222, log entry 8 (the model's choice of what of the bus survives): an uncut reset and a cut write
give no reply and take no free value, a cut read gives one reply and takes one, and the later events
stay. -/
def Obligations.ResetKeepsTheBusGoing : Prop :=
  ∀ (s : State) (cut : Option Access) (rest : List Event), s.pending = .reset cut :: rest →
    ∃ t, step s = .next t ∧ t.pending = rest ∧
      (match cut with
       | some (.read _ _) =>
         t.freeCount = s.freeCount + 1 ∧ ∃ v, t.replies = v :: s.replies
       | _ => t.freeCount = s.freeCount ∧ t.replies = s.replies)

/-- R210: with no access to serve WNE holds its registers. -/
def Obligations.IdleHoldsItsRegisters : Prop :=
  ∀ s : State, s.pending = [] → step s = .next s

/-- R212, log entry 7: where a second master has acted the machine goes on, ID still reads its constant,
and the host's own accesses and replies stay as they are. -/
def Obligations.SecondMasterLeavesTheHostsAccesses : Prop :=
  ∀ (s : State) (rest : List Event), s.pending = .otherMaster :: rest →
    ∃ t, step s = .next t ∧ t.pending = rest ∧ t.replies = s.replies ∧
      t.freeCount = s.freeCount + 1 ∧ readWord t .id = 0x574E0001#32

/-! ### NOP and the integer commands -/

/-- R101: NOP clears STATUS and changes nothing else; its only word is 0. -/
def Obligations.NopClearsStatusOnly : Prop :=
  encode .nop = 0x00000000#32 ∧ ∀ s : State, exec .nop s = .next { s with status := 0#32 }

/-- R102: IADD, with its word-pair form. -/
def Obligations.IaddAddsModulo96Bits : Prop :=
  encode .iadd = 0x00000001#32 ∧
  ∀ s : State,
    let a := s.a.toNat % 2 ^ 96
    let b := s.b.toNat % 2 ^ 96
    let r := (a + b) % 2 ^ 96
    let lo := (a % 2 ^ 64 + b % 2 ^ 64) % 2 ^ 64
    let c := if a % 2 ^ 64 + b % 2 ^ 64 ≥ 2 ^ 64 then 1 else 0
    let up := (a / 2 ^ 64 + b / 2 ^ 64 + c) % 2 ^ 32
    exec .iadd s = .next { s with r := BitVec.ofNat 128 r, status := 0#32 } ∧
    r = up * 2 ^ 64 + lo

/-- R103: ISUB, with its word-pair form and its form by complement. -/
def Obligations.IsubSubtractsModulo96Bits : Prop :=
  encode .isub = 0x00000002#32 ∧
  ∀ s : State,
    let a : Int := s.a.toNat % 2 ^ 96
    let b : Int := s.b.toNat % 2 ^ 96
    let r : Int := (a - b) % 2 ^ 96
    let lo : Int := (a % 2 ^ 64 - b % 2 ^ 64) % 2 ^ 64
    let w : Int := if a % 2 ^ 64 < b % 2 ^ 64 then 1 else 0
    let up : Int := (a / 2 ^ 64 - b / 2 ^ 64 - w) % 2 ^ 32
    exec .isub s = .next { s with r := BitVec.ofInt 128 r, status := 0#32 } ∧
    r = up * 2 ^ 64 + lo ∧ r = (a + (2 ^ 96 - 1 - b) + 1) % 2 ^ 96

/-- R104: INEG, with its word-pair form; B is not read. -/
def Obligations.InegNegatesModulo96Bits : Prop :=
  encode .ineg = 0x00000003#32 ∧
  ∀ s : State,
    let a := s.a.toNat % 2 ^ 96
    let r := (2 ^ 96 - a) % 2 ^ 96
    let lo := (2 ^ 64 - 1 - a % 2 ^ 64 + 1) % 2 ^ 64
    let c := if a % 2 ^ 64 = 0 then 1 else 0
    let up := (2 ^ 32 - 1 - a / 2 ^ 64 + c) % 2 ^ 32
    exec .ineg s = .next { s with r := BitVec.ofNat 128 r, status := 0#32 } ∧
    r = up * 2 ^ 64 + lo

/-- R105: IMUL, with the source's limb form. -/
def Obligations.ImulMultipliesModulo96Bits : Prop :=
  encode .imul = 0x00000004#32 ∧
  ∀ s : State,
    let a := s.a.toNat % 2 ^ 96
    let b := s.b.toNat % 2 ^ 96
    let r := a * b % 2 ^ 96
    let a0 := a % 2 ^ 32
    let a1 := a / 2 ^ 32 % 2 ^ 32
    let a2 := a / 2 ^ 64
    let b0 := b % 2 ^ 32
    let b1 := b / 2 ^ 32 % 2 ^ 32
    let b2 := b / 2 ^ 64
    exec .imul s = .next { s with r := BitVec.ofNat 128 r, status := 0#32 } ∧
    r = (a0 * b0 + (a0 * b1 + a1 * b0) * 2 ^ 32 + (a0 * b2 + a1 * b1 + a2 * b0) * 2 ^ 64) % 2 ^ 96

/-- R100: the integer commands complete, write R zero-extended and STATUS = 0 and no other register, and
the result depends on A[95:0] and B[95:0] alone. -/
def Obligations.IntegerCommandsFrame : Prop :=
  ∀ i : Instr, (i = .iadd ∨ i = .isub ∨ i = .ineg ∨ i = .imul) →
    ∀ s s' : State, s.a.toNat % 2 ^ 96 = s'.a.toNat % 2 ^ 96 →
      s.b.toNat % 2 ^ 96 = s'.b.toNat % 2 ^ 96 →
      ∃ r : Word128, r.toNat < 2 ^ 96 ∧
        exec i s = .next { s with r := r, status := 0#32 } ∧
        exec i s' = .next { s' with r := r, status := 0#32 }

/-- R106: each integer command is the two's-complement operation too: read as signed 96-bit numbers, the
result is the signed result reduced modulo 2^96 into [-2^95, 2^95). -/
def Obligations.IntegerCommandsAreSignedToo : Prop :=
  ∀ s : State,
    let a := (s.a.extractLsb' 0 96).toInt
    let b := (s.b.extractLsb' 0 96).toInt
    ∀ (i : Instr) (v : Int),
      (i = .iadd ∧ v = a + b ∨ i = .isub ∧ v = a - b ∨ i = .ineg ∧ v = -a ∨ i = .imul ∧ v = a * b) →
      ∃ t, exec i s = .next t ∧
        -2 ^ 95 ≤ (t.r.extractLsb' 0 96).toInt ∧ (t.r.extractLsb' 0 96).toInt < 2 ^ 95 ∧
        ∃ k : Int, (t.r.extractLsb' 0 96).toInt = v + k * 2 ^ 96

/-! ### DECOMP -/

/-- R124, R126: DECOMP of a fixed-point word. -/
def Obligations.DecompOfFixedWord : Prop :=
  ∀ (src : Descriptor) (s : State), src.kind = .fixed → src.valid = true →
    let iv := Reference.fixedInteger src s.a
    ∃ t, exec (.decomp src) s = .next t ∧
      t = { s with ds := t.ds, dm := t.dm, de := t.de, status := t.status } ∧
      t.ds = (if iv < 0 then 1#1 else 0#1) ∧
      t.dm.toNat = iv.natAbs ∧
      t.de.toInt = -((if src.param = 0 then src.bits / 2 else src.param : Nat) : Int) ∧
      t.status = (if iv = 0 then 0x00000010#32 else 0x00000060#32)

/-- R121, R122, R125, R126: DECOMP of a floating-point word, class by class. -/
def Obligations.DecompOfFloatWord : Prop :=
  ∀ (src : Descriptor) (s : State), src.kind = .float → src.valid = true →
    let b := Reference.floatExp src s.a
    let m := Reference.floatMant src s.a
    ∃ t, exec (.decomp src) s = .next t ∧
      t = { s with ds := t.ds, dm := t.dm, de := t.de, status := t.status } ∧
      t.ds = BitVec.ofBool (Reference.floatSign src s.a) ∧
      (0 < b ∧ b < src.emax →
        t.dm.toNat = m + 2 ^ src.mantBits ∧ t.de.toInt = (b : Int) - src.bias - src.mantBits ∧
        t.status = 0x00000030#32) ∧
      (b = 0 →
        t.dm.toNat = m ∧ t.de.toInt = 1 - (src.bias : Int) - src.mantBits ∧
        t.status = (if m = 0 then 0x00000010#32 else 0x00000020#32)) ∧
      (b = src.emax →
        t.dm = 0#256 ∧ t.de = 0#256 ∧
        t.status = (if m = 0 then 0x00000040#32 else 0x00000050#32))

/-- R27, R120, R123 to R125: the decomposition of a finite word denotes exactly the number the word
denotes. -/
def Obligations.DecompositionIsExact : Prop :=
  ∀ (src : Descriptor) (s : State), src.valid = true →
    ¬ Reference.NonFinite (Reference.wordClass src s.a) →
    ∃ t, exec (.decomp src) s = .next t ∧
      Reference.exactValue (t.ds == 1#1) t.dm.toNat t.de.toInt = Reference.wordValue src s.a

/-- R25, R26, R125: DECOMP leaves a magnitude below 2^128 in DM and a power of magnitude below 2^127 in
DE. -/
def Obligations.DecompositionFitsItsRegisters : Prop :=
  ∀ (src : Descriptor) (s : State), src.valid = true →
    ∃ t, exec (.decomp src) s = .next t ∧
      t.dm.toNat < 2 ^ 128 ∧ -(2 ^ 127) < t.de.toInt ∧ t.de.toInt < 2 ^ 127

/-! ### Rounding -/

/-- R160: the rounding the commands use is the rule, line by line, for every magnitude and shift. -/
def Obligations.RneIsTheRule : Prop :=
  ∀ M k : Nat,
    (k = 0 → rne M k = M) ∧
    (0 < k → ∀ t r h, t = M / 2 ^ k → r = M - t * 2 ^ k → h = 2 ^ (k - 1) →
      rne M k = if r > h ∨ (r = h ∧ t % 2 = 1) then t + 1 else t) ∧
    (bitlen M < k → M / 2 ^ k = 0 ∧ (rne M k = if M > 2 ^ (k - 1) then 1 else 0))

/-- R161: RNE(M, k) is the integer nearest to M / 2^k, of two equally near integers the even one; an
exact half leaves an even truncated result and increments an odd one. -/
def Obligations.RneRoundsToNearestEven : Prop :=
  ∀ M k : Nat,
    (∀ n : Int, |(rne M k : Int) * 2 ^ k - M| ≤ |n * 2 ^ k - M|) ∧
    (∀ n : Int, n ≠ rne M k → |(rne M k : Int) * 2 ^ k - M| = |n * 2 ^ k - M| → rne M k % 2 = 0) ∧
    (0 < k → M % 2 ^ k = 2 ^ (k - 1) →
      rne M k = if M / 2 ^ k % 2 = 0 then M / 2 ^ k else M / 2 ^ k + 1)

/-- R161: RNE is monotonic in M, is at most the ceiling of M / 2^k, and keeps a 256-bit magnitude within
2^255 for k of 1 or more. -/
def Obligations.RneIsMonotonicAndBounded : Prop :=
  ∀ k : Nat,
    (∀ M N : Nat, M ≤ N → rne M k ≤ rne N k) ∧
    (∀ M : Nat, rne M k ≤ (M + 2 ^ k - 1) / 2 ^ k) ∧
    (∀ M : Nat, 1 ≤ k → M < 2 ^ 256 → rne M k ≤ 2 ^ 255)

/-- R162: RNDSH, by its word, rounds DM, adds k to DE modulo 2^256, clears STATUS and changes nothing else;
the corner cases k = 0, k = 256 and k of 257 or more. -/
def Obligations.RndshRoundsTheMagnitude : Prop :=
  ∀ (s : State) (k : Nat), k < 512 →
    let dm := Reference.rne s.dm.toNat k
    encode (.rndsh k) = BitVec.ofNat 32 (k * 2 ^ 5 + 0x0B) ∧
    exec (.rndsh k) s = .next { s with
      dm := BitVec.ofNat 256 dm
      de := BitVec.ofNat 256 ((s.de.toNat + k) % 2 ^ 256)
      status := 0#32 } ∧
    dm < 2 ^ 256 ∧
    (k = 0 → dm = s.dm.toNat) ∧
    (k = 256 → dm = if s.dm.toNat > 2 ^ 255 then 1 else 0) ∧
    (257 ≤ k → dm = 0)

/-! ### RECOMP -/

/-- R140, R141: recomposition into a fixed-point format is FixTarget over unbounded integers, for every
magnitude and every power. -/
def Obligations.FixedRecomposeIsTheRule : Prop :=
  ∀ (dst : Descriptor) (neg : Bool) (M : Nat) (E : Int), dst.kind = .fixed → dst.valid = true →
    recompose dst neg M E = Reference.fixTarget dst neg M E

/-- R140, R142, R143: recomposition into a floating-point format is FloatTarget over unbounded integers,
for every magnitude and every power. -/
def Obligations.FloatRecomposeIsTheRule : Prop :=
  ∀ (dst : Descriptor) (neg : Bool) (M : Nat) (E : Int), dst.kind = .float → dst.valid = true →
    recompose dst neg M E = Reference.floatTarget dst neg M E

/-- R144, R148: RECOMP writes the recomposed word zero-extended to R and its class to RCLASS, and changes
nothing else. -/
def Obligations.RecompWritesTheRecomposedWord : Prop :=
  ∀ (dst : Descriptor) (s : State), dst.valid = true →
    ∃ r : Word128,
      r.toNat = Reference.recompose dst (s.ds == 1#1) s.dm.toNat s.de.toInt ∧
      exec (.recomp dst) s = .next { s with
        r := r, status := mkStatus .none .none (Reference.wordClass dst r) }

/-- R23, R140: the result of RECOMP and CVT is a W-bit word zero-extended: R[127:W] = 0. -/
def Obligations.FormatResultsFitTheirWidth : Prop :=
  ∀ (src dst : Descriptor) (s : State), dst.valid = true →
    (∃ t, exec (.recomp dst) s = .next t ∧ t.r.toNat < 2 ^ dst.bits) ∧
    (∃ t, exec (.cvt src dst) s = .next t ∧
      (statusErr t.status = 0#4 → t.r.toNat < 2 ^ dst.bits))

/-- R147: a fixed-point result is the exact value scaled by 2^f, rounded once to the nearest integer with
ties to even, then clamped to the storage range. -/
def Obligations.FixedRecomposeRoundsOnce : Prop :=
  ∀ (dst : Descriptor) (s : State), dst.kind = .fixed → dst.valid = true →
    let v := Reference.exactValue (s.ds == 1#1) s.dm.toNat s.de.toInt * (2 : ℚ) ^ (dst.fracBits : Int)
    let lo : Int := if dst.signed then -2 ^ (dst.bits - 1) else 0
    let hi : Int := if dst.signed then 2 ^ (dst.bits - 1) - 1 else 2 ^ dst.bits - 1
    ∃ (n : Int) (t : State), 2 * |(n : ℚ) - v| ≤ 1 ∧ (2 * |(n : ℚ) - v| = 1 → n % 2 = 0) ∧
      exec (.recomp dst) s = .next t ∧
      Reference.fixedInteger dst t.r = max lo (min hi n)

/-- R147: a finite floating-point result of RECOMP is the nearest finite word of the format to the exact
value, and of two equally near values the one whose mantissa field is even (a negative value into an
unsigned format is +0 by another rule). -/
def Obligations.FloatRecomposeRoundsOnce : Prop :=
  ∀ (dst : Descriptor) (s t : State), dst.kind = .float → dst.valid = true →
    (s.ds = 0#1 ∨ dst.signed = true) → exec (.recomp dst) s = .next t →
    ¬ Reference.NonFinite (Reference.wordClass dst t.r) →
    let v := Reference.exactValue (s.ds == 1#1) s.dm.toNat s.de.toInt
    ∀ x : Word128, ¬ Reference.NonFinite (Reference.wordClass dst x) →
      |Reference.wordValue dst t.r - v| ≤ |Reference.wordValue dst x - v| ∧
      (Reference.wordValue dst x ≠ Reference.wordValue dst t.r →
        |Reference.wordValue dst t.r - v| = |Reference.wordValue dst x - v| →
        Reference.floatMant dst t.r % 2 = 0)

/-- R147: the threshold from which a positive value goes to +Infinity. -/
def Obligations.FloatOverflowThreshold : Prop :=
  ∀ (dst : Descriptor) (M : Nat) (E : Int), dst.kind = .float → dst.valid = true →
    (recompose dst false M E = infinityWord dst false ↔
      (if dst.expBits = 1 then
        ((2 : ℚ) ^ dst.mantBits - 1 / 2) * (2 : ℚ) ^ (1 - (dst.mantBits : Int))
       else ((2 : ℚ) ^ (dst.mantBits + 1) - 1 / 2) *
        (2 : ℚ) ^ ((dst.emax : Int) - 1 - dst.bias - dst.mantBits)) ≤ (M : ℚ) * (2 : ℚ) ^ E)

/-- R141, R142: a negative value into an unsigned format gives the word 0 of class ZERO and no error. -/
def Obligations.NegativeIntoUnsignedGivesZero : Prop :=
  ∀ (dst : Descriptor) (s : State), dst.valid = true → dst.signed = false → s.ds = 1#1 →
    exec (.recomp dst) s = .next { s with r := 0#128, status := 0x00000100#32 }

/-! ### CVT -/

/-- R145, R148: CVT of a finite word is Recompose of its decomposition, written to R with both classes;
DS, DM, DE and every other register stay. -/
def Obligations.CvtOfFiniteWord : Prop :=
  ∀ (src dst : Descriptor) (s : State), src.valid = true → dst.valid = true →
    ¬ Reference.NonFinite (Reference.wordClass src s.a) →
    ∃ (neg : Bool) (M : Nat) (E : Int) (r : Word128),
      (Reference.exactValue neg M E = Reference.wordValue src s.a ∧
        neg = (if src.kind = .fixed then decide (Reference.fixedInteger src s.a < 0)
          else Reference.floatSign src s.a)) ∧
      r.toNat = Reference.recompose dst neg M E ∧
      exec (.cvt src dst) s = .next { s with
        r := r
        status := mkStatus .none (Reference.wordClass src s.a) (Reference.wordClass dst r) }

/-- R73, R74, R146, R204: CVT of an Infinity or a NaN: REPRESENTATION into fixed-point, the canonical NaN,
+0 for a negative Infinity into unsigned, else the Infinity of the source's sign. -/
def Obligations.CvtOfInfinityAndNan : Prop :=
  ∀ (src dst : Descriptor) (s : State), src.valid = true → dst.valid = true →
    Reference.NonFinite (Reference.wordClass src s.a) →
    let cls := Reference.wordClass src s.a
    let neg := Reference.floatSign src s.a
    (dst.kind = .fixed →
      exec (.cvt src dst) s = .next { s with
        status := if cls = .infinity then 0x00000043#32 else 0x00000053#32 }) ∧
    (dst.kind = .float → cls = .nan →
      exec (.cvt src dst) s = .next { s with
        r := BitVec.ofNat 128 (Reference.canonicalNan dst), status := 0x00000550#32 }) ∧
    (dst.kind = .float → cls = .infinity → neg = true → dst.signed = false →
      exec (.cvt src dst) s = .next { s with r := 0#128, status := 0x00000140#32 }) ∧
    (dst.kind = .float → cls = .infinity → (neg = false ∨ dst.signed = true) →
      exec (.cvt src dst) s = .next { s with
        r := BitVec.ofNat 128 (Reference.pack dst neg dst.emax 0), status := 0x00000440#32 })

/-- R127: for a finite word, CVT gives the result and the result class that DECOMP followed by RECOMP
gives: the decomposition is the only route between formats. -/
def Obligations.CvtIsDecompThenRecomp : Prop :=
  ∀ (src dst : Descriptor) (s : State), src.valid = true → dst.valid = true →
    ¬ Reference.NonFinite (Reference.wordClass src s.a) →
    ∃ t u c, exec (.decomp src) s = .next t ∧ exec (.recomp dst) t = .next u ∧
      exec (.cvt src dst) s = .next c ∧ c.r = u.r ∧
      statusRclass c.status = statusRclass u.status ∧
      statusSclass c.status = statusSclass t.status ∧
      c = { s with r := c.r, status := c.status }

/-- R147: converting a finite word to its own format returns it. -/
def Obligations.ConversionToTheSameFormatIsIdentity : Prop :=
  ∀ (d : Descriptor) (s : State), d.valid = true →
    ¬ Reference.NonFinite (Reference.wordClass d s.a) →
    ∃ t, exec (.cvt d d) s = .next t ∧ t.r.toNat = s.a.toNat % 2 ^ d.bits ∧
      statusErr t.status = 0#4

/-- R147: a fixed-point word converted to a fixed-point format that holds every value of the source, and
back, is the original word. -/
def Obligations.RescaleIsIdempotent : Prop :=
  ∀ (d e : Descriptor) (s : State), d.kind = .fixed → e.kind = .fixed → d.valid = true →
    e.valid = true → d.fracBits ≤ e.fracBits → d.signBits ≤ e.signBits →
    d.bits - d.signBits - d.fracBits ≤ e.bits - e.signBits - e.fracBits →
    ∃ t u, exec (.cvt d e) s = .next t ∧ exec (.cvt e d) { t with a := t.r } = .next u ∧
      u.r.toNat = s.a.toNat % 2 ^ d.bits

/-! ### Errors -/

/-- R202: a command that uses an invalid descriptor raises CONFIG, and one that uses none does not. -/
def Obligations.InvalidDescriptorRaisesConfig : Prop :=
  ∀ (i : Instr) (s : State),
    (Reference.UsesInvalidFormat i → exec i s = .next { s with status := 0x00000002#32 }) ∧
    (¬ Reference.UsesInvalidFormat i → ∃ t, exec i s = .next t ∧ statusErr t.status ≠ 2#4)

/-- R203: an erroring command changes STATUS alone (CMD keeps the written word), with every field 0 but
the code and, for REPRESENTATION, the source class; and the next CMD write runs normally. -/
def Obligations.ErrorsChangeStatusAlone : Prop :=
  ∀ (s t : State) (w : Word) (rest : List Event),
    s.pending = .access (.write 0x08#8 32 w) :: rest → step s = .next t →
    statusErr t.status ≠ 0#4 →
    t = { s with pending := rest, cmd := w, status := t.status } ∧
    (t.status = 0x00000001#32 ∨ t.status = 0x00000002#32 ∨ t.status = 0x00000043#32 ∨
      t.status = 0x00000053#32) ∧
    ∀ (w' : Word) (rest' : List Event) (i : Instr),
      rest = .access (.write 0x08#8 32 w') :: rest' → decode w' = .instr i →
      step t = exec i { t with pending := rest', cmd := w' }

/-- R200, R205: a command word reports the first error that applies, in the order ILLEGAL, CONFIG of the
source, CONFIG of the destination, REPRESENTATION, and NONE when none applies. -/
def Obligations.FirstErrorThatAppliesIsReported : Prop :=
  ∀ (s : State) (w : Word) (rest : List Event),
    s.pending = .access (.write 0x08#8 32 w) :: rest →
    ∃ t, step s = .next t ∧
      (Reference.IllegalEncoding w → statusErr t.status = 1#4) ∧
      (∀ i, decode w = .instr i →
        (Reference.UsesInvalidFormat i → statusErr t.status = 2#4) ∧
        (¬ Reference.UsesInvalidFormat i →
          ((∃ src dst, i = .cvt src dst ∧ dst.kind = .fixed ∧
            Reference.NonFinite (Reference.wordClass src s.a)) → statusErr t.status = 3#4) ∧
          (¬ (∃ src dst, i = .cvt src dst ∧ dst.kind = .fixed ∧
            Reference.NonFinite (Reference.wordClass src s.a)) → statusErr t.status = 0#4)))

/-! ### The whole machine -/

/-- R20 to R26, R30, R65: which registers a command can write: none writes A, B or CMD, only DECOMP writes
DS, only DECOMP and RNDSH write DM and DE, and only the integer commands, RECOMP and CVT write R. -/
def Obligations.CommandsWriteOnlyTheirRegisters : Prop :=
  ∀ (i : Instr) (s : State), ∃ t, exec i s = .next t ∧
    t.a = s.a ∧ t.b = s.b ∧ t.cmd = s.cmd ∧
    t.pending = s.pending ∧ t.replies = s.replies ∧ t.freeCount = s.freeCount ∧
    ((∀ src, i ≠ .decomp src) → t.ds = s.ds) ∧
    ((∀ src, i ≠ .decomp src) → (∀ k, i ≠ .rndsh k) → t.dm = s.dm ∧ t.de = s.de) ∧
    ((i = .nop ∨ (∃ src, i = .decomp src) ∨ (∃ k, i = .rndsh k)) → t.r = s.r)

/-- R65 (reads), R21, R22: a command's effect depends only on the registers it reads: two states that
agree on them end with the same values in the registers it writes. -/
def Obligations.CommandsReadOnlyTheirOperands : Prop :=
  ∀ (src dst : Descriptor) (k : Nat) (s s' : State),
    (s.a.toNat % 2 ^ src.bits = s'.a.toNat % 2 ^ src.bits →
      (∃ t t', exec (.decomp src) s = .next t ∧ exec (.decomp src) s' = .next t' ∧
        t.status = t'.status ∧ (src.valid = true → t.ds = t'.ds ∧ t.dm = t'.dm ∧ t.de = t'.de)) ∧
      (∃ t t', exec (.cvt src dst) s = .next t ∧ exec (.cvt src dst) s' = .next t' ∧
        t.status = t'.status ∧ (statusErr t.status = 0#4 → t.r = t'.r))) ∧
    (s.ds = s'.ds → s.dm = s'.dm → s.de = s'.de →
      ∃ t t', exec (.recomp dst) s = .next t ∧ exec (.recomp dst) s' = .next t' ∧
        t.status = t'.status ∧ (dst.valid = true → t.r = t'.r)) ∧
    (s.dm = s'.dm → s.de = s'.de →
      ∃ t t', exec (.rndsh k) s = .next t ∧ exec (.rndsh k) s' = .next t' ∧
        t.status = t'.status ∧ t.dm = t'.dm ∧ t.de = t'.de)

/-- R28: STATUS is not sticky: what a command leaves does not depend on the STATUS before it. -/
def Obligations.StatusIsNotSticky : Prop :=
  ∀ (i : Instr) (s : State) (st : Word), exec i { s with status := st } = exec i s

/-- R47: every command but RNDSH, executed twice with no write between, leaves the same state both
times. -/
def Obligations.CommandsButRndshAreIdempotent : Prop :=
  ∀ (i : Instr) (s t : State), (∀ k, i ≠ .rndsh k) → exec i s = .next t → exec i t = .next t

/-- R28 to R30, R200 to R207, R212: with one host, STATUS is always a legal value that reports the command
word CMD holds, and every step keeps that. -/
def Obligations.StatusReportsTheCommandInvariant : Prop :=
  ∀ s t : State, Inv s → step s = .next t → Inv t

/-- R220: the invariant holds after reset. -/
def Obligations.InvariantHoldsAfterReset : Prop := Inv State.reset

/-- R42, R48: while every pending access is an aligned 32-bit one, no step faults or is refused, and every
step keeps it so. -/
def Obligations.ServedAccessesNeverFault : Prop :=
  ∀ s : State, BusSafe s → ∃ t, step s = .next t ∧ BusSafe t
end

