-- ==== Sys2Proof/Laws/State.lean ====
section
/-! SUPPORT. What each register update leaves in each field of State, one lemma per field per update. -/

namespace Sys2Proof.Machine.State

variable (s : State)

@[simp] theorem withStatus_status (v : Word) : (s.withStatus v).status = v := rfl
@[simp] theorem withStatus_cmd (v : Word) : (s.withStatus v).cmd = s.cmd := rfl
@[simp] theorem withStatus_a (v : Word) : (s.withStatus v).a = s.a := rfl
@[simp] theorem withStatus_b (v : Word) : (s.withStatus v).b = s.b := rfl
@[simp] theorem withStatus_r (v : Word) : (s.withStatus v).r = s.r := rfl
@[simp] theorem withStatus_ds (v : Word) : (s.withStatus v).ds = s.ds := rfl
@[simp] theorem withStatus_dm (v : Word) : (s.withStatus v).dm = s.dm := rfl
@[simp] theorem withStatus_de (v : Word) : (s.withStatus v).de = s.de := rfl
@[simp] theorem withStatus_pending (v : Word) : (s.withStatus v).pending = s.pending := rfl
@[simp] theorem withStatus_replies (v : Word) : (s.withStatus v).replies = s.replies := rfl
@[simp] theorem withStatus_freeCount (v : Word) : (s.withStatus v).freeCount = s.freeCount := rfl

@[simp] theorem withCmd_status (v : Word) : (s.withCmd v).status = s.status := rfl
@[simp] theorem withCmd_cmd (v : Word) : (s.withCmd v).cmd = v := rfl
@[simp] theorem withCmd_a (v : Word) : (s.withCmd v).a = s.a := rfl
@[simp] theorem withCmd_b (v : Word) : (s.withCmd v).b = s.b := rfl
@[simp] theorem withCmd_r (v : Word) : (s.withCmd v).r = s.r := rfl
@[simp] theorem withCmd_ds (v : Word) : (s.withCmd v).ds = s.ds := rfl
@[simp] theorem withCmd_dm (v : Word) : (s.withCmd v).dm = s.dm := rfl
@[simp] theorem withCmd_de (v : Word) : (s.withCmd v).de = s.de := rfl
@[simp] theorem withCmd_pending (v : Word) : (s.withCmd v).pending = s.pending := rfl
@[simp] theorem withCmd_replies (v : Word) : (s.withCmd v).replies = s.replies := rfl
@[simp] theorem withCmd_freeCount (v : Word) : (s.withCmd v).freeCount = s.freeCount := rfl

@[simp] theorem withA_status (v : Word128) : (s.withA v).status = s.status := rfl
@[simp] theorem withA_cmd (v : Word128) : (s.withA v).cmd = s.cmd := rfl
@[simp] theorem withA_a (v : Word128) : (s.withA v).a = v := rfl
@[simp] theorem withA_b (v : Word128) : (s.withA v).b = s.b := rfl
@[simp] theorem withA_r (v : Word128) : (s.withA v).r = s.r := rfl
@[simp] theorem withA_ds (v : Word128) : (s.withA v).ds = s.ds := rfl
@[simp] theorem withA_dm (v : Word128) : (s.withA v).dm = s.dm := rfl
@[simp] theorem withA_de (v : Word128) : (s.withA v).de = s.de := rfl
@[simp] theorem withA_pending (v : Word128) : (s.withA v).pending = s.pending := rfl
@[simp] theorem withA_replies (v : Word128) : (s.withA v).replies = s.replies := rfl
@[simp] theorem withA_freeCount (v : Word128) : (s.withA v).freeCount = s.freeCount := rfl

@[simp] theorem withB_status (v : Word128) : (s.withB v).status = s.status := rfl
@[simp] theorem withB_cmd (v : Word128) : (s.withB v).cmd = s.cmd := rfl
@[simp] theorem withB_a (v : Word128) : (s.withB v).a = s.a := rfl
@[simp] theorem withB_b (v : Word128) : (s.withB v).b = v := rfl
@[simp] theorem withB_r (v : Word128) : (s.withB v).r = s.r := rfl
@[simp] theorem withB_ds (v : Word128) : (s.withB v).ds = s.ds := rfl
@[simp] theorem withB_dm (v : Word128) : (s.withB v).dm = s.dm := rfl
@[simp] theorem withB_de (v : Word128) : (s.withB v).de = s.de := rfl
@[simp] theorem withB_pending (v : Word128) : (s.withB v).pending = s.pending := rfl
@[simp] theorem withB_replies (v : Word128) : (s.withB v).replies = s.replies := rfl
@[simp] theorem withB_freeCount (v : Word128) : (s.withB v).freeCount = s.freeCount := rfl

@[simp] theorem withR_status (v : Word128) : (s.withR v).status = s.status := rfl
@[simp] theorem withR_cmd (v : Word128) : (s.withR v).cmd = s.cmd := rfl
@[simp] theorem withR_a (v : Word128) : (s.withR v).a = s.a := rfl
@[simp] theorem withR_b (v : Word128) : (s.withR v).b = s.b := rfl
@[simp] theorem withR_r (v : Word128) : (s.withR v).r = v := rfl
@[simp] theorem withR_ds (v : Word128) : (s.withR v).ds = s.ds := rfl
@[simp] theorem withR_dm (v : Word128) : (s.withR v).dm = s.dm := rfl
@[simp] theorem withR_de (v : Word128) : (s.withR v).de = s.de := rfl
@[simp] theorem withR_pending (v : Word128) : (s.withR v).pending = s.pending := rfl
@[simp] theorem withR_replies (v : Word128) : (s.withR v).replies = s.replies := rfl
@[simp] theorem withR_freeCount (v : Word128) : (s.withR v).freeCount = s.freeCount := rfl

@[simp] theorem withDs_status (v : BitVec 1) : (s.withDs v).status = s.status := rfl
@[simp] theorem withDs_cmd (v : BitVec 1) : (s.withDs v).cmd = s.cmd := rfl
@[simp] theorem withDs_a (v : BitVec 1) : (s.withDs v).a = s.a := rfl
@[simp] theorem withDs_b (v : BitVec 1) : (s.withDs v).b = s.b := rfl
@[simp] theorem withDs_r (v : BitVec 1) : (s.withDs v).r = s.r := rfl
@[simp] theorem withDs_ds (v : BitVec 1) : (s.withDs v).ds = v := rfl
@[simp] theorem withDs_dm (v : BitVec 1) : (s.withDs v).dm = s.dm := rfl
@[simp] theorem withDs_de (v : BitVec 1) : (s.withDs v).de = s.de := rfl
@[simp] theorem withDs_pending (v : BitVec 1) : (s.withDs v).pending = s.pending := rfl
@[simp] theorem withDs_replies (v : BitVec 1) : (s.withDs v).replies = s.replies := rfl
@[simp] theorem withDs_freeCount (v : BitVec 1) : (s.withDs v).freeCount = s.freeCount := rfl

@[simp] theorem withDm_status (v : Word256) : (s.withDm v).status = s.status := rfl
@[simp] theorem withDm_cmd (v : Word256) : (s.withDm v).cmd = s.cmd := rfl
@[simp] theorem withDm_a (v : Word256) : (s.withDm v).a = s.a := rfl
@[simp] theorem withDm_b (v : Word256) : (s.withDm v).b = s.b := rfl
@[simp] theorem withDm_r (v : Word256) : (s.withDm v).r = s.r := rfl
@[simp] theorem withDm_ds (v : Word256) : (s.withDm v).ds = s.ds := rfl
@[simp] theorem withDm_dm (v : Word256) : (s.withDm v).dm = v := rfl
@[simp] theorem withDm_de (v : Word256) : (s.withDm v).de = s.de := rfl
@[simp] theorem withDm_pending (v : Word256) : (s.withDm v).pending = s.pending := rfl
@[simp] theorem withDm_replies (v : Word256) : (s.withDm v).replies = s.replies := rfl
@[simp] theorem withDm_freeCount (v : Word256) : (s.withDm v).freeCount = s.freeCount := rfl

@[simp] theorem withDe_status (v : Word256) : (s.withDe v).status = s.status := rfl
@[simp] theorem withDe_cmd (v : Word256) : (s.withDe v).cmd = s.cmd := rfl
@[simp] theorem withDe_a (v : Word256) : (s.withDe v).a = s.a := rfl
@[simp] theorem withDe_b (v : Word256) : (s.withDe v).b = s.b := rfl
@[simp] theorem withDe_r (v : Word256) : (s.withDe v).r = s.r := rfl
@[simp] theorem withDe_ds (v : Word256) : (s.withDe v).ds = s.ds := rfl
@[simp] theorem withDe_dm (v : Word256) : (s.withDe v).dm = s.dm := rfl
@[simp] theorem withDe_de (v : Word256) : (s.withDe v).de = v := rfl
@[simp] theorem withDe_pending (v : Word256) : (s.withDe v).pending = s.pending := rfl
@[simp] theorem withDe_replies (v : Word256) : (s.withDe v).replies = s.replies := rfl
@[simp] theorem withDe_freeCount (v : Word256) : (s.withDe v).freeCount = s.freeCount := rfl

@[simp] theorem withPending_status (v : List Event) : (s.withPending v).status = s.status := rfl
@[simp] theorem withPending_cmd (v : List Event) : (s.withPending v).cmd = s.cmd := rfl
@[simp] theorem withPending_a (v : List Event) : (s.withPending v).a = s.a := rfl
@[simp] theorem withPending_b (v : List Event) : (s.withPending v).b = s.b := rfl
@[simp] theorem withPending_r (v : List Event) : (s.withPending v).r = s.r := rfl
@[simp] theorem withPending_ds (v : List Event) : (s.withPending v).ds = s.ds := rfl
@[simp] theorem withPending_dm (v : List Event) : (s.withPending v).dm = s.dm := rfl
@[simp] theorem withPending_de (v : List Event) : (s.withPending v).de = s.de := rfl
@[simp] theorem withPending_pending (v : List Event) : (s.withPending v).pending = v := rfl
@[simp] theorem withPending_replies (v : List Event) : (s.withPending v).replies = s.replies := rfl
@[simp] theorem withPending_freeCount (v : List Event) : (s.withPending v).freeCount = s.freeCount := rfl

@[simp] theorem reply_status (v : Word) : (s.reply v).status = s.status := rfl
@[simp] theorem reply_cmd (v : Word) : (s.reply v).cmd = s.cmd := rfl
@[simp] theorem reply_a (v : Word) : (s.reply v).a = s.a := rfl
@[simp] theorem reply_b (v : Word) : (s.reply v).b = s.b := rfl
@[simp] theorem reply_r (v : Word) : (s.reply v).r = s.r := rfl
@[simp] theorem reply_ds (v : Word) : (s.reply v).ds = s.ds := rfl
@[simp] theorem reply_dm (v : Word) : (s.reply v).dm = s.dm := rfl
@[simp] theorem reply_de (v : Word) : (s.reply v).de = s.de := rfl
@[simp] theorem reply_pending (v : Word) : (s.reply v).pending = s.pending := rfl
@[simp] theorem reply_replies (v : Word) : (s.reply v).replies = v :: s.replies := rfl
@[simp] theorem reply_freeCount (v : Word) : (s.reply v).freeCount = s.freeCount := rfl

@[simp] theorem tookFree_status : (s.tookFree).status = s.status := rfl
@[simp] theorem tookFree_cmd : (s.tookFree).cmd = s.cmd := rfl
@[simp] theorem tookFree_a : (s.tookFree).a = s.a := rfl
@[simp] theorem tookFree_b : (s.tookFree).b = s.b := rfl
@[simp] theorem tookFree_r : (s.tookFree).r = s.r := rfl
@[simp] theorem tookFree_ds : (s.tookFree).ds = s.ds := rfl
@[simp] theorem tookFree_dm : (s.tookFree).dm = s.dm := rfl
@[simp] theorem tookFree_de : (s.tookFree).de = s.de := rfl
@[simp] theorem tookFree_pending : (s.tookFree).pending = s.pending := rfl
@[simp] theorem tookFree_replies : (s.tookFree).replies = s.replies := rfl
@[simp] theorem tookFree_freeCount : (s.tookFree).freeCount = s.freeCount + 1 := rfl

/-- Two states that agree in every field are equal. -/
theorem ext_fields {s t : State} (h1 : s.status = t.status) (h2 : s.cmd = t.cmd) (h3 : s.a = t.a)
    (h4 : s.b = t.b) (h5 : s.r = t.r) (h6 : s.ds = t.ds) (h7 : s.dm = t.dm) (h8 : s.de = t.de)
    (h9 : s.pending = t.pending) (h10 : s.replies = t.replies) (h11 : s.freeCount = t.freeCount) :
    s = t := by
  cases s; cases t; simp_all

end Sys2Proof.Machine.State
end

