-- ==== Sys2Proof/Laws/Ops.lean ====
section
/-! SUPPORT. What each shared operation leaves in each field of State: the error (R203), the end of a
command (R28), the integer result (R100), the decomposition registers (R126), the format result (R144,
R145) and the reset (R220). -/

namespace Sys2Proof.Machine

variable (s : State)

@[simp] theorem raise_status (e : ErrCode) (c : NumClass) :
    (raise s e c).status = mkStatus e c .none := rfl
@[simp] theorem raise_cmd (e : ErrCode) (c : NumClass) : (raise s e c).cmd = s.cmd := rfl
@[simp] theorem raise_a (e : ErrCode) (c : NumClass) : (raise s e c).a = s.a := rfl
@[simp] theorem raise_b (e : ErrCode) (c : NumClass) : (raise s e c).b = s.b := rfl
@[simp] theorem raise_r (e : ErrCode) (c : NumClass) : (raise s e c).r = s.r := rfl
@[simp] theorem raise_ds (e : ErrCode) (c : NumClass) : (raise s e c).ds = s.ds := rfl
@[simp] theorem raise_dm (e : ErrCode) (c : NumClass) : (raise s e c).dm = s.dm := rfl
@[simp] theorem raise_de (e : ErrCode) (c : NumClass) : (raise s e c).de = s.de := rfl
@[simp] theorem raise_pending (e : ErrCode) (c : NumClass) :
    (raise s e c).pending = s.pending := rfl
@[simp] theorem raise_replies (e : ErrCode) (c : NumClass) :
    (raise s e c).replies = s.replies := rfl
@[simp] theorem raise_freeCount (e : ErrCode) (c : NumClass) :
    (raise s e c).freeCount = s.freeCount := rfl

@[simp] theorem complete_status (c c' : NumClass) :
    (complete s c c').status = mkStatus .none c c' := rfl
@[simp] theorem complete_cmd (c c' : NumClass) : (complete s c c').cmd = s.cmd := rfl
@[simp] theorem complete_a (c c' : NumClass) : (complete s c c').a = s.a := rfl
@[simp] theorem complete_b (c c' : NumClass) : (complete s c c').b = s.b := rfl
@[simp] theorem complete_r (c c' : NumClass) : (complete s c c').r = s.r := rfl
@[simp] theorem complete_ds (c c' : NumClass) : (complete s c c').ds = s.ds := rfl
@[simp] theorem complete_dm (c c' : NumClass) : (complete s c c').dm = s.dm := rfl
@[simp] theorem complete_de (c c' : NumClass) : (complete s c c').de = s.de := rfl
@[simp] theorem complete_pending (c c' : NumClass) : (complete s c c').pending = s.pending := rfl
@[simp] theorem complete_replies (c c' : NumClass) : (complete s c c').replies = s.replies := rfl
@[simp] theorem complete_freeCount (c c' : NumClass) :
    (complete s c c').freeCount = s.freeCount := rfl

@[simp] theorem finishInt_status (v : Word96) :
    (finishInt s v).status = mkStatus .none .none .none := rfl
@[simp] theorem finishInt_cmd (v : Word96) : (finishInt s v).cmd = s.cmd := rfl
@[simp] theorem finishInt_a (v : Word96) : (finishInt s v).a = s.a := rfl
@[simp] theorem finishInt_b (v : Word96) : (finishInt s v).b = s.b := rfl
@[simp] theorem finishInt_r (v : Word96) : (finishInt s v).r = BitVec.setWidth 128 v := rfl
@[simp] theorem finishInt_ds (v : Word96) : (finishInt s v).ds = s.ds := rfl
@[simp] theorem finishInt_dm (v : Word96) : (finishInt s v).dm = s.dm := rfl
@[simp] theorem finishInt_de (v : Word96) : (finishInt s v).de = s.de := rfl
@[simp] theorem finishInt_pending (v : Word96) : (finishInt s v).pending = s.pending := rfl
@[simp] theorem finishInt_replies (v : Word96) : (finishInt s v).replies = s.replies := rfl
@[simp] theorem finishInt_freeCount (v : Word96) : (finishInt s v).freeCount = s.freeCount := rfl

@[simp] theorem writeDecomposition_status (x : Decomposition) :
    (writeDecomposition s x).status = s.status := rfl
@[simp] theorem writeDecomposition_cmd (x : Decomposition) :
    (writeDecomposition s x).cmd = s.cmd := rfl
@[simp] theorem writeDecomposition_a (x : Decomposition) : (writeDecomposition s x).a = s.a := rfl
@[simp] theorem writeDecomposition_b (x : Decomposition) : (writeDecomposition s x).b = s.b := rfl
@[simp] theorem writeDecomposition_r (x : Decomposition) : (writeDecomposition s x).r = s.r := rfl
@[simp] theorem writeDecomposition_ds (x : Decomposition) :
    (writeDecomposition s x).ds = BitVec.ofBool x.neg := rfl
@[simp] theorem writeDecomposition_dm (x : Decomposition) :
    (writeDecomposition s x).dm = BitVec.ofNat 256 x.mag := rfl
@[simp] theorem writeDecomposition_de (x : Decomposition) :
    (writeDecomposition s x).de = BitVec.ofInt 256 x.exp := rfl
@[simp] theorem writeDecomposition_pending (x : Decomposition) :
    (writeDecomposition s x).pending = s.pending := rfl
@[simp] theorem writeDecomposition_replies (x : Decomposition) :
    (writeDecomposition s x).replies = s.replies := rfl
@[simp] theorem writeDecomposition_freeCount (x : Decomposition) :
    (writeDecomposition s x).freeCount = s.freeCount := rfl

@[simp] theorem finishFormat_status (c : NumClass) (d : Descriptor) (raw : Nat) :
    (finishFormat s c d raw).status = mkStatus .none c (classOf d raw) := rfl
@[simp] theorem finishFormat_cmd (c : NumClass) (d : Descriptor) (raw : Nat) :
    (finishFormat s c d raw).cmd = s.cmd := rfl
@[simp] theorem finishFormat_a (c : NumClass) (d : Descriptor) (raw : Nat) :
    (finishFormat s c d raw).a = s.a := rfl
@[simp] theorem finishFormat_b (c : NumClass) (d : Descriptor) (raw : Nat) :
    (finishFormat s c d raw).b = s.b := rfl
@[simp] theorem finishFormat_r (c : NumClass) (d : Descriptor) (raw : Nat) :
    (finishFormat s c d raw).r = BitVec.ofNat 128 raw := rfl
@[simp] theorem finishFormat_ds (c : NumClass) (d : Descriptor) (raw : Nat) :
    (finishFormat s c d raw).ds = s.ds := rfl
@[simp] theorem finishFormat_dm (c : NumClass) (d : Descriptor) (raw : Nat) :
    (finishFormat s c d raw).dm = s.dm := rfl
@[simp] theorem finishFormat_de (c : NumClass) (d : Descriptor) (raw : Nat) :
    (finishFormat s c d raw).de = s.de := rfl
@[simp] theorem finishFormat_pending (c : NumClass) (d : Descriptor) (raw : Nat) :
    (finishFormat s c d raw).pending = s.pending := rfl
@[simp] theorem finishFormat_replies (c : NumClass) (d : Descriptor) (raw : Nat) :
    (finishFormat s c d raw).replies = s.replies := rfl
@[simp] theorem finishFormat_freeCount (c : NumClass) (d : Descriptor) (raw : Nat) :
    (finishFormat s c d raw).freeCount = s.freeCount := rfl

@[simp] theorem resetRegisters_status : (resetRegisters s).status = 0#32 := rfl
@[simp] theorem resetRegisters_cmd : (resetRegisters s).cmd = 0#32 := rfl
@[simp] theorem resetRegisters_a : (resetRegisters s).a = 0#128 := rfl
@[simp] theorem resetRegisters_b : (resetRegisters s).b = 0#128 := rfl
@[simp] theorem resetRegisters_r : (resetRegisters s).r = 0#128 := rfl
@[simp] theorem resetRegisters_ds : (resetRegisters s).ds = 0#1 := rfl
@[simp] theorem resetRegisters_dm : (resetRegisters s).dm = 0#256 := rfl
@[simp] theorem resetRegisters_de : (resetRegisters s).de = 0#256 := rfl
@[simp] theorem resetRegisters_pending : (resetRegisters s).pending = s.pending := rfl
@[simp] theorem resetRegisters_replies : (resetRegisters s).replies = s.replies := rfl
@[simp] theorem resetRegisters_freeCount : (resetRegisters s).freeCount = s.freeCount := rfl

end Sys2Proof.Machine
end

