-- ==== Sys2Proof/Laws/Exec.lean ====
section
/-! SUPPORT. What a command can do: the descriptor commands by the validity of their descriptors, and the
fields no command touches. -/

namespace Sys2Proof.Machine

theorem execDecomp_valid {src : Descriptor} (h : src.valid = true) (s : State) :
    execDecomp src s =
      .next (complete (writeDecomposition s (decompose src (rawView src s.a)))
        (decompose src (rawView src s.a)).cls .none) := by
  simp [execDecomp, h]

theorem execDecomp_invalid {src : Descriptor} (h : src.valid = false) (s : State) :
    execDecomp src s = .next (raise s .config .none) := by
  simp [execDecomp, h]

theorem execRecomp_valid {dst : Descriptor} (h : dst.valid = true) (s : State) :
    execRecomp dst s =
      .next (finishFormat s .none dst (recompose dst (s.ds == 1#1) s.dm.toNat s.de.toInt)) := by
  simp [execRecomp, h]

theorem execRecomp_invalid {dst : Descriptor} (h : dst.valid = false) (s : State) :
    execRecomp dst s = .next (raise s .config .none) := by
  simp [execRecomp, h]

theorem execCvt_invalid {src dst : Descriptor} (h : (src.valid && dst.valid) = false) (s : State) :
    execCvt src dst s = .next (raise s .config .none) := by
  cases hs : src.valid <;> simp_all [execCvt]

theorem execCvt_representation {src dst : Descriptor} (hs : src.valid = true) (hd : dst.valid = true)
    (s : State) (h : convert dst (decompose src (rawView src s.a)) = none) :
    execCvt src dst s =
      .next (raise s .representation (decompose src (rawView src s.a)).cls) := by
  simp [execCvt, hs, hd, h]

theorem execCvt_converted {src dst : Descriptor} (hs : src.valid = true) (hd : dst.valid = true)
    (s : State) {raw : Nat} (h : convert dst (decompose src (rawView src s.a)) = some raw) :
    execCvt src dst s =
      .next (finishFormat s (decompose src (rawView src s.a)).cls dst raw) := by
  simp [execCvt, hs, hd, h]

/-- What CVT can do: raise CONFIG, raise REPRESENTATION, or write R (R145). -/
theorem execCvt_cases (src dst : Descriptor) (s : State) :
    ((src.valid && dst.valid) = false ∧ execCvt src dst s = .next (raise s .config .none)) ∨
    (src.valid = true ∧ dst.valid = true ∧
      convert dst (decompose src (rawView src s.a)) = none ∧
      execCvt src dst s =
        .next (raise s .representation (decompose src (rawView src s.a)).cls)) ∨
    (∃ raw, src.valid = true ∧ dst.valid = true ∧
      convert dst (decompose src (rawView src s.a)) = some raw ∧
      execCvt src dst s = .next (finishFormat s (decompose src (rawView src s.a)).cls dst raw)) := by
  cases hs : src.valid
  · exact .inl ⟨rfl, execCvt_invalid (by simp [hs]) s⟩
  cases hd : dst.valid
  · exact .inl ⟨rfl, execCvt_invalid (by simp [hd]) s⟩
  cases hc : convert dst (decompose src (rawView src s.a)) with
  | none => exact .inr (.inl ⟨rfl, rfl, rfl, execCvt_representation hs hd s hc⟩)
  | some raw => exact .inr (.inr ⟨raw, rfl, rfl, rfl, execCvt_converted hs hd s hc⟩)

/-- A decomposed word has the class of the word (R124, R125, R148). -/
theorem decompose_cls (d : Descriptor) (raw : Nat) : (decompose d raw).cls = classOf d raw := by
  unfold decompose classOf
  cases d.kind
  · rfl
  · simp only [decomposeFloat]
    cases floatClass d raw <;> rfl

/-- `convert` refuses exactly an Infinity or NaN into a fixed-point destination (R146, R204). -/
theorem convert_eq_none (dst : Descriptor) (x : Decomposition) :
    convert dst x = none ↔ (x.cls = .infinity ∨ x.cls = .nan) ∧ dst.kind = .fixed := by
  unfold convert special
  by_cases h : x.cls = .infinity ∨ x.cls = .nan
  · cases dst.kind
    · simp [h]
    · simp only [h, if_true]
      constructor
      · intro e
        split at e
        · cases e
        · split at e <;> cases e
      · intro e; cases e.2
  · simp [h]

end Sys2Proof.Machine
end

