-- ==== Sys2Proof/Laws/PerInstr.lean ====
section
/-! SUPPORT. Per command: the OP field of its word is its opcode (spec/30_encoding.md R61, R65). -/

namespace Sys2Proof.Laws

/-- The opcode table (30_encoding.md R65). -/
def opcodeOf : Instr → BitVec 5
  | .nop => 0x00#5
  | .iadd => 0x01#5
  | .isub => 0x02#5
  | .ineg => 0x03#5
  | .imul => 0x04#5
  | .decomp _ => 0x08#5
  | .recomp _ => 0x09#5
  | .cvt _ _ => 0x0A#5
  | .rndsh _ => 0x0B#5

/-- The word of the command carries its opcode in bits [4:0]. -/
def Opcode.Statement (i : Instr) : Prop := opField (encode i) = opcodeOf i

/-- The low field of a concatenation. -/
theorem extractLsb'_append_low {n m : Nat} (x : BitVec n) (y : BitVec m) :
    (x ++ y).extractLsb' 0 m = y := by
  refine BitVec.eq_of_getLsbD_eq fun k hk => ?_
  simp [BitVec.getLsbD_append, hk]

theorem Opcode.nop : Opcode.Statement .nop := rfl
theorem Opcode.iadd : Opcode.Statement .iadd := rfl
theorem Opcode.isub : Opcode.Statement .isub := rfl
theorem Opcode.ineg : Opcode.Statement .ineg := rfl
theorem Opcode.imul : Opcode.Statement .imul := rfl
theorem Opcode.decomp (src : Descriptor) : Opcode.Statement (.decomp src) :=
  extractLsb'_append_low _ _
theorem Opcode.recomp (dst : Descriptor) : Opcode.Statement (.recomp dst) :=
  extractLsb'_append_low _ _
theorem Opcode.cvt (src dst : Descriptor) : Opcode.Statement (.cvt src dst) :=
  extractLsb'_append_low _ _
theorem Opcode.rndsh (k : Nat) : Opcode.Statement (.rndsh k) :=
  extractLsb'_append_low _ _

end Sys2Proof.Laws
end

