-- ==== Sys2Proof/Laws/Rounder.lean ====
section
/-! SUPPORT. The bounds of `bitlen` (spec/00_scope.md R9). -/

namespace Sys2Proof.Machine

@[simp] theorem bitlen_zero : bitlen 0 = 0 := rfl

theorem bitlen_pos {M : Nat} (h : 0 < M) : bitlen M = M.log2 + 1 := by
  simp [bitlen, Nat.pos_iff_ne_zero.mp h]

/-- M < 2^k for k = bitlen M (R9). -/
theorem lt_two_pow_bitlen (M : Nat) : M < 2 ^ bitlen M := by
  rcases Nat.eq_zero_or_pos M with rfl | h
  · simp
  · rw [bitlen_pos h]; exact Nat.lt_log2_self

/-- 2^(k-1) ≤ M for k = bitlen M and M > 0 (R9). -/
theorem two_pow_bitlen_le {M : Nat} (h : 0 < M) : 2 ^ (bitlen M - 1) ≤ M := by
  rw [bitlen_pos h]; exact Nat.log2_self_le (Nat.pos_iff_ne_zero.mp h)

end Sys2Proof.Machine
end

