-- ==== Sys2Proof/Laws/Status.lean ====
section
/-! SUPPORT. The fields of a STATUS value that `mkStatus` builds (spec/10_state.md R28, R29). -/

namespace Sys2Proof.Machine

@[simp] theorem statusErr_mkStatus (e : ErrCode) (c c' : NumClass) :
    statusErr (mkStatus e c c') = e.code := by
  cases e <;> cases c <;> cases c' <;> rfl

@[simp] theorem statusSclass_mkStatus (e : ErrCode) (c c' : NumClass) :
    statusSclass (mkStatus e c c') = c.code := by
  cases e <;> cases c <;> cases c' <;> rfl

@[simp] theorem statusRclass_mkStatus (e : ErrCode) (c c' : NumClass) :
    statusRclass (mkStatus e c c') = c'.code := by
  cases e <;> cases c <;> cases c' <;> rfl

@[simp] theorem mkStatus_none : mkStatus .none .none .none = 0#32 := rfl

theorem ErrCode.code_injective {e e' : ErrCode} (h : e.code = e'.code) : e = e' := by
  revert h; cases e <;> cases e' <;> decide

theorem NumClass.code_injective {c c' : NumClass} (h : c.code = c'.code) : c = c' := by
  revert h; cases c <;> cases c' <;> decide

/-- Every value `mkStatus` builds is a legal STATUS. -/
theorem statusLegal_mkStatus (e : ErrCode) (c c' : NumClass) : StatusLegal (mkStatus e c c') := by
  cases e <;> cases c <;> cases c' <;> decide

/-- A STATUS value determines the three codes it was built from. -/
theorem mkStatus_inj {e e' : ErrCode} {c d c' d' : NumClass}
    (h : mkStatus e c c' = mkStatus e' d d') : e = e' ∧ c = d ∧ c' = d' :=
  ⟨ErrCode.code_injective (by simpa using congrArg statusErr h),
   NumClass.code_injective (by simpa using congrArg statusSclass h),
   NumClass.code_injective (by simpa using congrArg statusRclass h)⟩

end Sys2Proof.Machine
end

