-- ==== Sys2Proof/Laws/Window.lean ====
section
/-! SUPPORT. The register window: offsets name words uniquely, and a stored word is read back while every
other word keeps its value (spec/20_memory.md R41, R44, R46). -/

namespace Sys2Proof.Machine

/-- The register map is its own inverse: a register's offset selects that register's word (R41). -/
@[simp] theorem wordAt_offset (x : RegWord) : wordAt x.offset = some x := by
  cases x with
  | id => rfl
  | status => rfl
  | cmd => rfl
  | ds => rfl
  | a n => revert n; decide
  | b n => revert n; decide
  | rs n => revert n; decide
  | dm n => revert n; decide
  | de n => revert n; decide

/-- Every register's word stands at a multiple of 4 (R42). -/
theorem offset_aligned (x : RegWord) : x.offset.toNat % 4 = 0 := by
  cases x with
  | id => rfl
  | status => rfl
  | cmd => rfl
  | ds => rfl
  | a n => revert n; decide
  | b n => revert n; decide
  | rs n => revert n; decide
  | dm n => revert n; decide
  | de n => revert n; decide

/-- Bit k of a register after word n was stored: the stored word's bit inside word n, the old bit
elsewhere (R46). -/
theorem getLsbD_setWord {w : Nat} (x : BitVec w) (n : Nat) (v : Word) (k : Nat) :
    (setWord x n v).getLsbD k =
      if 32 * n ≤ k ∧ k < 32 * n + 32 then decide (k < w) && v.getLsbD (k - 32 * n)
      else x.getLsbD k := by
  simp only [setWord, BitVec.getLsbD_or, BitVec.getLsbD_and, BitVec.getLsbD_not,
    BitVec.getLsbD_shiftLeft, BitVec.getLsbD_setWidth, BitVec.getLsbD_allOnes]
  by_cases hw : k < w
  · by_cases h1 : k < 32 * n
    · have : ¬ (32 * n ≤ k ∧ k < 32 * n + 32) := by omega
      simp [hw, h1, this]
    · by_cases h2 : k < 32 * n + 32
      · have h3 : k - 32 * n < 32 := by omega
        have h4 : k - 32 * n < w := by omega
        have h5 : 32 * n ≤ k ∧ k < 32 * n + 32 := by omega
        simp [hw, h1, h3, h4, h5]
      · have h3 : ¬ k - 32 * n < 32 := by omega
        have h4 : v.getLsbD (k - 32 * n) = false := BitVec.getLsbD_of_ge _ _ (by omega)
        have h5 : ¬ (32 * n ≤ k ∧ k < 32 * n + 32) := by omega
        simp [hw, h1, h3, h4, h5]
  · have : x.getLsbD k = false := BitVec.getLsbD_of_ge _ _ (by omega)
    simp [hw, this]

/-- The word just stored is read back (R46). -/
theorem getWord_setWord_same {w : Nat} (x : BitVec w) (n : Nat) (v : Word) (h : 32 * n + 32 ≤ w) :
    getWord (setWord x n v) n = v := by
  refine BitVec.eq_of_getLsbD_eq fun k hk => ?_
  have h1 : 32 * n ≤ 32 * n + k ∧ 32 * n + k < 32 * n + 32 := by omega
  have h2 : 32 * n + k < w := by omega
  simp only [getWord, BitVec.getLsbD_extractLsb', getLsbD_setWord, hk, h1, h2, decide_true,
    Bool.true_and, and_self, if_true, Nat.add_sub_cancel_left]

/-- Another word keeps its value (R46). -/
theorem getWord_setWord_other {w : Nat} (x : BitVec w) (n m : Nat) (v : Word) (h : m ≠ n) :
    getWord (setWord x n v) m = getWord x m := by
  refine BitVec.eq_of_getLsbD_eq fun k hk => ?_
  have h1 : ¬ (32 * n ≤ 32 * m + k ∧ 32 * m + k < 32 * n + 32) := by omega
  simp only [getWord, BitVec.getLsbD_extractLsb', getLsbD_setWord, hk, h1, if_false]

/-- A store to one word of the window leaves every other word as it reads (R46). -/
theorem readWord_storeWord_other (s : State) (x y : RegWord) (v : Word) (h : y ≠ x) :
    readWord (storeWord s x v) y = readWord s y := by
  cases x <;> cases y <;>
    first
    | rfl
    | exact absurd rfl h
    | (refine getWord_setWord_other _ _ _ _ fun e => h ?_
       congr 1; exact Fin.ext e)

end Sys2Proof.Machine
end

