-- ==== Sys2Proof/Laws/Step.lean ====
section
/-! SUPPORT. What one bus event does (spec/20_memory.md R42, R46, R47; spec/60_exceptions.md R210). -/

namespace Sys2Proof.Machine

theorem step_idle {s : State} (h : s.pending = []) : step s = .next s := by
  simp [step, h]

theorem step_event {s : State} {e : Event} {rest : List Event} (h : s.pending = e :: rest) :
    step s = handle (s.withPending rest) e := by
  simp [step, h]

theorem servable_iff (offset : BitVec 8) (width : Nat) :
    servable offset width = true ↔ width = 32 ∧ offset.toNat % 4 = 0 := by
  simp [servable]

theorem serve_read {offset : BitVec 8} {width : Nat} (h : servable offset width = true) (s : State) :
    serve s (.read offset width) = .next (s.reply (readWindow s offset)) := by
  simp [serve, h]

theorem serve_write {offset : BitVec 8} {width : Nat} (h : servable offset width = true) (s : State)
    (v : Word) : serve s (.write offset width v) = writeWindow s offset v := by
  simp [serve, h]

theorem serve_read_fault {offset : BitVec 8} {width : Nat} (h : servable offset width = false)
    (s : State) : serve s (.read offset width) = .fault (.busError offset width) := by
  simp [serve, h]

theorem serve_write_fault {offset : BitVec 8} {width : Nat} (h : servable offset width = false)
    (s : State) (v : Word) :
    serve s (.write offset width v) = .fault (.busError offset width) := by
  simp [serve, h]

/-- What a served write can do: nothing where the window is reserved, store and execute at CMD, store or
ignore anywhere else (R41, R46, R47). -/
theorem writeWindow_cases (s : State) (offset : BitVec 8) (v : Word) :
    (wordAt offset = none ∧ writeWindow s offset v = .next s) ∨
    (wordAt offset = some .cmd ∧ writeWindow s offset v = executeWord (s.withCmd v) v) ∨
    (∃ x, wordAt offset = some x ∧ x ≠ .cmd ∧ writeWindow s offset v = .next (storeWord s x v)) := by
  unfold writeWindow
  split
  · exact .inl ⟨‹_›, rfl⟩
  · exact .inr (.inl ⟨‹_›, rfl⟩)
  · next x hne hx => exact .inr (.inr ⟨x, hx, fun e => hne (by rw [e]), rfl⟩)

/-- The execution of a word: ILLEGAL where it is no command, else the command (R72). -/
theorem executeWord_illegal {v : Word} {why : IllegalWord} (h : decode v = .illegal why) (s : State) :
    executeWord s v = .next (raise s .illegal .none) := by
  simp [executeWord, h]

theorem executeWord_instr {v : Word} {i : Instr} (h : decode v = .instr i) (s : State) :
    executeWord s v = exec i s := by
  simp [executeWord, h]

/-- A write of a word to CMD, pending, runs the word at the state whose CMD holds it (R30, R72). -/
theorem step_cmd_write {s : State} {v : Word} {rest : List Event}
    (h : s.pending = .access (.write 0x08#8 32 v) :: rest) :
    step s = executeWord ((s.withPending rest).withCmd v) v := by
  rw [step_event h]
  rfl

/-- The word `withFetchWord` places is the next one to run. -/
theorem step_withFetchWord (s : State) (nbits w : Nat) :
    step (s.withFetchWord nbits w) =
      executeWord (s.withCmd (BitVec.ofNat 32 (w % 2 ^ nbits))) (BitVec.ofNat 32 (w % 2 ^ nbits)) :=
  rfl

end Sys2Proof.Machine
end

