-- ==== Sys2Proof/Machine/HostProgram.lean ====
section
/-! DEFINITION. The host program notation and the pseudo-instructions (spec/30_encoding.md R78, R79). A
host program runs on the host's own processor; WNE sees only the accesses it leaves, so nothing here is
state of WNE. Log entry 14. -/

namespace Sys2Proof.Machine

/-- A value a `wr` line stores: an immediate or what an earlier `rd` line read (R78, R79). -/
inductive HostValue where
  | imm (v : Word)
  | name (x : String)
deriving DecidableEq, Repr

/-- One line of a host program (R78). -/
inductive HostLine where
  /-- `wr <reg>, <value>` -/
  | wr (reg : RegWord) (v : HostValue)
  /-- `rd <reg> -> <name>` -/
  | rd (reg : RegWord) (x : String)
  /-- `c <command>` = `wr CMD, <encoding of command>`, by its word -/
  | c (w : Word)
  /-- `<label>:` -/
  | label (l : String)
  /-- `bne <name>, <imm>, <label>` -/
  | bne (x : String) (v : Word) (l : String)
  /-- `halt` -/
  | halt
deriving DecidableEq, Repr

/-- The host's own state: its place in the program and the names it has read. -/
structure HostState where
  line : Nat
  names : List (String × Word)
deriving DecidableEq, Repr

/-- What one line of a host program comes to. -/
inductive HostOutcome where
  /-- the host goes on, with WNE's state -/
  | next (h : HostState) (s : State)
  /-- `halt`, or (DESIGN CHOICE, log entry 14: R78 is silent) the end of the program without one -/
  | halted
  /-- the access was answered with a bus error; what the host does then is the host's (20_memory.md R42) -/
  | busError (f : Fault)
  /-- the program uses a name it has not read or a label it does not define (DESIGN CHOICE, log entry 14:
  R78 is silent) -/
  | undefinedName (x : String)
deriving DecidableEq, Repr

/-- The value last read into a name. -/
def lookupName (names : List (String × Word)) (x : String) : Option Word :=
  (names.find? fun p => p.1 == x).map Prod.snd

/-- The line a label stands at, counted from `n` (R78). DESIGN CHOICE: R78 does not say what a label that
stands at several places of one program names; the first one from the top is taken. Log entry 14. -/
def labelLine (l : String) : Nat → List HostLine → Option Nat
  | _, [] => none
  | n, .label l' :: rest => if l' = l then some n else labelLine l (n + 1) rest
  | n, _ :: rest => labelLine l (n + 1) rest

/-- A 32-bit write of a register's word (R78: `MemWrite(WNE_BASE + off(reg), 4, imm32)`). -/
def hostWrite (h : HostState) (s : State) (reg : RegWord) (v : Word) : HostOutcome :=
  match serve s (.write reg.offset 32 v) with
  | .next s' => .next { h with line := h.line + 1 } s'
  | .fault f => .busError f
  | .refused _ => .halted

/-- A 32-bit read of a register's word into a name (R78: `MemRead(WNE_BASE + off(reg), 4)`). -/
def hostRead (h : HostState) (s : State) (reg : RegWord) (x : String) : HostOutcome :=
  match serve s (.read reg.offset 32) with
  | .next s' =>
    .next { line := h.line + 1, names := (x, s'.replies.headD 0#32) :: h.names } s'
  | .fault f => .busError f
  | .refused _ => .halted

/-- One line of the program, run in order by the host (R78). DESIGN CHOICE: the line's access is served at
once, whatever events `s.pending` holds, and those stay pending. Log entry 14. -/
def hostStep (program : List HostLine) (h : HostState) (s : State) : HostOutcome :=
  match program[h.line]? with
  | none => .halted
  | some (.wr reg (.imm v)) => hostWrite h s reg v
  | some (.wr reg (.name x)) =>
    match lookupName h.names x with
    | none => .undefinedName x
    | some v => hostWrite h s reg v
  | some (.rd reg x) => hostRead h s reg x
  | some (.c w) => hostWrite h s .cmd w
  | some (.label _) => .next { h with line := h.line + 1 } s
  | some (.bne x v l) =>
    match lookupName h.names x with
    | none => .undefinedName x
    | some u =>
      if u = v then .next { h with line := h.line + 1 } s
      else
        match labelLine l 0 program with
        | none => .undefinedName l
        | some n => .next { h with line := n } s
  | some .halt => .halted

/-- At most `fuel` lines of a program. -/
def hostRun (program : List HostLine) : Nat → HostState → State → HostOutcome
  | 0, h, s => .next h s
  | fuel + 1, h, s =>
    match hostStep program h s with
    | .next h' s' => hostRun program fuel h' s'
    | .halted => .next h s
    | .busError f => .busError f
    | .undefinedName x => .undefinedName x

/-! ### Pseudo-instructions (R79) -/

/-- `wr X0, v[31:0]` ; `wr X1, v[63:32]` ; … for the words of a register. -/
def storeWords {n w : Nat} (reg : Fin n → RegWord) (v : BitVec w) : List HostLine :=
  (List.finRange n).map fun i => .wr (reg i) (.imm (getWord v i))

/-- `ld.a <v>`; a negative v means its 128-bit two's complement (R79). DESIGN CHOICE, here and in `ldB`,
`ldDm` and `ldDe`: a v that does not fit the register is reduced modulo 2^width. Log entry 14. -/
def ldA (v : Int) : List HostLine := storeWords RegWord.a (BitVec.ofInt 128 v)

/-- `ld.b <v>` (R79). -/
def ldB (v : Int) : List HostLine := storeWords RegWord.b (BitVec.ofInt 128 v)

/-- `ld.ds <s>` (R79). -/
def ldDs (v : Word) : List HostLine := [.wr .ds (.imm v)]

/-- `ld.dm <v>` (R79). -/
def ldDm (v : Nat) : List HostLine := storeWords RegWord.dm (BitVec.ofNat 256 v)

/-- `ld.de <v>`, v taken as its 256-bit two's complement (R79). -/
def ldDe (v : Int) : List HostLine := storeWords RegWord.de (BitVec.ofInt 256 v)

/-- Reads of the words of a register into the names given, least significant word first. -/
def loadWords {n : Nat} (reg : Fin n → RegWord) (names : Fin n → String) : List HostLine :=
  (List.finRange n).map fun i => .rd (reg i) (names i)

/-- `rd.r`: the four reads of R (R79). -/
def rdR (names : Fin 4 → String) : List HostLine := loadWords RegWord.rs names

/-- `rd.dm`: the eight reads of DM (R79). -/
def rdDm (names : Fin 8 → String) : List HostLine := loadWords RegWord.dm names

/-- `rd.de`: the eight reads of DE (R79). -/
def rdDe (names : Fin 8 → String) : List HostLine := loadWords RegWord.de names

/-- `rd.st -> <name>` (R79). -/
def rdStatus (x : String) : List HostLine := [.rd .status x]

/-- The value assembled from words read, least significant first: {…, t1, t0} (R79). -/
def joinWords : List Word → Nat
  | [] => 0
  | v :: vs => v.toNat + 2 ^ 32 * joinWords vs

end Sys2Proof.Machine
end

