-- ==== Sys2Proof/Tests/Slice0.lean ====
section
/-! SUPPORT. Small tests, each with its source in spec/, and for every statement with hypotheses a concrete
state and operands that meet them together. -/

namespace Sys2Proof.Tests

open Sys2Proof.Machine

/-! ### Helpers -/

/-- The next state, if the step answers one. -/
def nextOf : Host.Outcome State Fault Refusal → Option State
  | .next t => some t
  | _ => none

/-- The fault, if the step answers one. -/
def faultOf : Host.Outcome State Fault Refusal → Option Fault
  | .fault f => some f
  | _ => none

/-- A register of the state after the host writes word `w` to CMD, `s` standing before it. -/
def after {α : Type} (s : State) (w : Nat) (f : State → α) : Option α :=
  (nextOf (step (s.withFetchWord 32 w))).map f

/-- A register of the state after one bus event. -/
def afterEvent {α : Type} (s : State) (e : Event) (f : State → α) : Option α :=
  (nextOf (step (s.withPending [e]))).map f

/-- The reset state with A holding `v`. -/
def withA (v : Nat) : State := State.reset.withA (BitVec.ofNat 128 v)

/-- The reset state with A and B. -/
def withAB (a b : Nat) : State := (withA a).withB (BitVec.ofNat 128 b)

/-- The reset state with the decomposition registers. -/
def withDecomposition (ds dm : Nat) (de : Int) : State :=
  ((State.reset.withDs (BitVec.ofNat 1 ds)).withDm (BitVec.ofNat 256 dm)).withDe (BitVec.ofInt 256 de)

/-- `flt.s16.10`, the half layout (30_encoding.md R77). -/
def half : Descriptor := ⟨.float, .w16, true, 10⟩

/-- `flt.s64.52`, the double layout (30_encoding.md R77). -/
def double : Descriptor := ⟨.float, .w64, true, 52⟩

/-- `fix.s32.16`, Q15.16 (30_encoding.md R77). -/
def q15 : Descriptor := ⟨.fixed, .w32, true, 16⟩

/-- `flt.s8.7`, no room for an exponent (95_test_vectors.md 2.6). -/
def noExponent : Descriptor := ⟨.float, .w8, true, 7⟩

/-! ### WellFormed: an ill-formed term for each check -/

theorem test_wellFormed_decomp_param : (Instr.decomp ⟨.fixed, .w8, true, 256⟩).wellFormed = false := by decide
theorem test_wellFormed_recomp_param : (Instr.recomp ⟨.float, .w8, true, 256⟩).wellFormed = false := by decide
theorem test_wellFormed_cvt_src_param : (Instr.cvt ⟨.fixed, .w8, true, 256⟩ half).wellFormed = false := by decide
theorem test_wellFormed_cvt_dst_param : (Instr.cvt half ⟨.fixed, .w8, true, 256⟩).wellFormed = false := by decide
theorem test_wellFormed_rndsh_k : (Instr.rndsh 512).wellFormed = false := by decide
theorem test_wellFormed_bounds :
    (Instr.cvt ⟨.fixed, .w8, true, 255⟩ half).wellFormed = true ∧ (Instr.rndsh 511).wellFormed = true := by
  decide

/-! ### Decode: every constructor by a word written out from R62 to R64, R67 -/

theorem test_decode_nop : decode 0b00000000000000000000000000000000#32 = .instr .nop := by decide
theorem test_decode_iadd : decode 0b00000000000000000000000000000001#32 = .instr .iadd := by decide
theorem test_decode_isub : decode 0b00000000000000000000000000000010#32 = .instr .isub := by decide
theorem test_decode_ineg : decode 0b00000000000000000000000000000011#32 = .instr .ineg := by decide
theorem test_decode_imul : decode 0b00000000000000000000000000000100#32 = .instr .imul := by decide
/-- P = 00001010, S = 1, WC = 001, K = 1, OP = 01000. -/
theorem test_decode_decomp :
    decode 0b00000000000000000010101001101000#32 = .instr (.decomp half) := by decide
/-- P = 00010000, S = 1, WC = 010, K = 0, then thirteen zeros, OP = 01001. -/
theorem test_decode_recomp :
    decode 0b00001000010100000000000000001001#32 = .instr (.recomp q15) := by decide
/-- P = 00010000, S = 1, WC = 010, K = 0, then P = 00110100, S = 1, WC = 011, K = 1, OP = 01010. -/
theorem test_decode_cvt :
    decode 0b00001000010100001101001011101010#32 = .instr (.cvt double q15) := by decide
/-- K = 111111111, OP = 01011. -/
theorem test_decode_rndsh :
    decode 0b00000000000000000011111111101011#32 = .instr (.rndsh 511) := by decide
/-- 95_test_vectors.md 2.6: the rejections, by name. -/
theorem test_decode_illegal :
    decode 0x00000005#32 = .illegal (.reservedOpcode 5) ∧
    decode 0x80000001#32 = .illegal .mustBeZero ∧ decode 0x00000188#32 = .illegal .reservedWidth ∧
    decode 0x00040208#32 = .illegal .mustBeZero ∧ decode 0x00400029#32 = .illegal .mustBeZero ∧
    decode 0x00380009#32 = .illegal .reservedWidth ∧ decode 0x0000400B#32 = .illegal .mustBeZero ∧
    decode 0x00381E2A#32 = .illegal .reservedWidth := by decide
/-- 30_encoding.md R77. -/
theorem test_encode_cvt : encode (.cvt double q15) = 0x0850D2EA#32 := by decide

/-! ### One step: vectors of 95_test_vectors.md -/

/-- 40_wide_integer.md R101: NOP clears the error code. -/
theorem test_nop : after (State.reset.withStatus 2#32) 0x00000000 State.status = some 0#32 := by decide
/-- 2.1: the carry out of bit 63 enters bit 64. -/
theorem test_iadd_carry :
    after (withAB 0x0000000000000000FFFFFFFFFFFFFFFF 1) 0x00000001 State.r =
      some 0x00000000000000010000000000000000#128 := by decide
/-- 2.1: A[127:96] is ignored. -/
theorem test_iadd_upper : after (withAB 0xFFFFFFFF000000000000000000000001 1) 0x00000001 State.r =
    some 2#128 := by decide
/-- 2.1: 5 - 7. -/
theorem test_isub : after (withAB 5 7) 0x00000002 State.r =
    some 0x00000000FFFFFFFFFFFFFFFFFFFFFFFE#128 := by decide
/-- 2.1: 0 - MIN = MIN. -/
theorem test_isub_min : after (withAB 0 (2 ^ 95)) 0x00000002 State.r = some (BitVec.ofNat 128 (2 ^ 95)) := by
  decide
/-- 2.1: -(2^64). -/
theorem test_ineg : after (withA (2 ^ 64)) 0x00000003 State.r =
    some 0x00000000FFFFFFFF0000000000000000#128 := by decide
/-- 2.1: -MIN = MIN. -/
theorem test_ineg_min : after (withA (2 ^ 95)) 0x00000003 State.r = some (BitVec.ofNat 128 (2 ^ 95)) := by decide
/-- 2.1: the three-limb product. -/
theorem test_imul :
    after (withAB 0x123456789ABCDEF012345678 0x0FEDCBA9876543210FEDCBA9) 0x00000004 State.r =
      some 0x2D0FA169D18203E89A363D38#128 := by decide
/-- 2.1: -3 * 7 = -21. -/
theorem test_imul_negative :
    after (withAB 0xFFFFFFFFFFFFFFFFFFFFFFFD 7) 0x00000004 State.r =
      some 0xFFFFFFFFFFFFFFFFFFFFFFEB#128 := by decide
/-- 2.2: `decomp flt.s16.10` of 0xC500 (-5). -/
theorem test_decomp_float :
    after (withA 0xC500) 0x00002A68 (fun t => (t.ds, t.dm, t.de.toInt, t.status)) =
      some (1#1, 1280#256, -8, 0x30#32) := by decide
/-- 2.2: `decomp fix.s128.127` of -1. -/
theorem test_decomp_fixed :
    after (withA (2 ^ 127)) 0x0001FF48 (fun t => (t.ds, t.dm.toNat, t.de.toInt, t.status)) =
      some (1#1, 2 ^ 127, -127, 0x60#32) := by decide
/-- 2.3: `recomp fix.s16.4`, -19.5 rounds to the even -20. -/
theorem test_recomp_fixed :
    after (withDecomposition 1 0x138 (-8)) 0x02480009 (fun t => (t.r, t.status)) =
      some (0xFFEC#128, 0x600#32) := by decide
/-- 2.3: `recomp flt.s16.10`, promoted to the smallest normal. -/
theorem test_recomp_float :
    after (withDecomposition 0 2047 (-25)) 0x054C0009 (fun t => (t.r, t.status)) =
      some (0x0400#128, 0x300#32) := by decide
/-- 2.4: 1/3 as a double, to half. -/
theorem test_cvt_float :
    after (withA 0x3FD5555555555555) 0x054CD2EA (fun t => (t.r, t.status)) =
      some (0x3555#128, 0x330#32) := by decide
/-- 2.4: +Infinity into fixed-point leaves R. -/
theorem test_cvt_representation :
    after ((withA 0x7C00).withR 77#128) 0x08502A6A (fun t => (t.r, t.status)) =
      some (77#128, 0x43#32) := by decide
/-- 2.5: `rndsh 1` wraps DE. -/
theorem test_rndsh_wrap :
    after (withDecomposition 0 3 (2 ^ 255 - 1)) 0x0000002B (fun t => (t.dm, t.de.toInt)) =
      some (2#256, -2 ^ 255) := by decide
/-- 2.5: `rndsh 256` of the exact half 2^255. -/
theorem test_rndsh_half :
    after (withDecomposition 0 (2 ^ 255) 0) 0x0000200B (fun t => (t.dm, t.de)) =
      some (0#256, 256#256) := by decide

/-- 42_recompose.md R144's corner case: a huge DE saturates without forming its power. -/
theorem test_recomp_huge :
    after (withDecomposition 0 5 (2 ^ 255 - 1)) 0x08500009 State.r = some 0x7FFFFFFF#128 := by decide

/-! ### Errors (2.6) -/

theorem test_illegal : after (withA 0x7E00) 0x0000001F (fun t => (t.status, t.cmd, t.r)) =
    some (1#32, 0x1F#32, 0#128) := by decide
theorem test_config : after (withA 0x7E00) 0x00001E28 (fun t => (t.status, t.dm)) =
    some (2#32, 0#256) := by decide
theorem test_config_before_representation :
    after (withA 0x7C00) 0x04C02A6A State.status = some 2#32 := by decide

/-! ### The window (2.7) -/

theorem test_read_id : afterEvent State.reset (.access (.read 0x00#8 32)) State.replies =
    some [0x574E0001#32] := by decide
theorem test_write_ds :
    afterEvent State.reset (.access (.write 0x40#8 32 0xFFFFFFFE#32)) State.ds = some 0#1 := by decide
theorem test_write_r_ignored :
    afterEvent State.reset (.access (.write 0x30#8 32 0xFFFFFFFF#32)) State.r = some 0#128 := by decide
theorem test_write_a1 :
    afterEvent State.reset (.access (.write 0x14#8 32 0x400C0000#32)) State.a =
      some 0x400C000000000000#128 := by decide
theorem test_read_de7 :
    afterEvent (withDecomposition 0 0 (-10)) (.access (.read 0x8C#8 32)) State.replies =
      some [0xFFFFFFFF#32] := by decide
theorem test_bus_error_width :
    faultOf (step (State.reset.withPending [.access (.read 0x10#8 16)])) =
      some (.busError 0x10#8 16) := by decide
theorem test_bus_error_alignment :
    faultOf (step (State.reset.withPending [.access (.write 0x12#8 32 1#32)])) =
      some (.busError 0x12#8 32) := by decide
theorem test_reset_event :
    afterEvent (withDecomposition 1 5 7) (.reset none) (fun t => (t.ds, t.dm, t.de, t.cmd)) =
      some (0#1, 0#256, 0#256, 0#32) := by decide

/-! ### Text and host programs (R77 to R79) -/

theorem test_parse_cvt :
    parseCommand "cvt flt.s64.52, fix.s32.16".toList = some (.cvt double q15) := by decide
theorem test_parse_default :
    parseCommand "decomp fix.u8".toList = some (.decomp ⟨.fixed, .w8, false, 0⟩) := by decide
theorem test_text_cvt :
    commandText (.cvt double q15) = "cvt flt.s64.52, fix.s32.16".toList := by decide
/-- R79: `ld.b` writes four words. -/
theorem test_ldB : ldB (-1) = (List.finRange 4).map fun i => .wr (.b i) (.imm 0xFFFFFFFF#32) := by decide
/-- R78: `bne` goes on at the label when the name differs. -/
theorem test_bne :
    hostStep [.bne "st" 0#32 "fail", .halt, .label "fail", .halt] ⟨0, [("st", 2#32)]⟩ State.reset =
      .next ⟨2, [("st", 2#32)]⟩ State.reset := by decide

/-! ### The host's questions -/

theorem test_decodeTableWord : decodeTableWord 32 0x0850D2EA = some (.cvt double q15) := by decide
theorem test_withFetchWord_runs :
    nextOf (step (State.reset.withFetchWord 32 0x0000014B)) =
      nextOf (exec (.rndsh 10) (State.reset.withCmd 0x0000014B#32)) := by decide

/-! ### Witnesses: concrete states and operands that meet a statement's hypotheses -/

/-- A pending access and nothing else, at the reset state. -/
def pendingAt (e : Event) : State := State.reset.withPending [e]

theorem witness_DecodeInvertsEncode : (Instr.cvt double q15).wellFormed = true := by decide
theorem witness_EncodeInvertsDecode : decode 0x0850D2EA#32 = .instr (.cvt double q15) := by decide
theorem witness_IllegalEncodingRaisesIllegal_a :
    Reference.IllegalEncoding 0x00000007#32 ∧ Reference.IllegalEncoding 0x0000000C#32 ∧
    (pendingAt (.access (.write 0x08#8 32 0x0000000C#32))).pending =
      .access (.write 0x08#8 32 0x0000000C#32) :: [] := by decide
theorem witness_IllegalEncodingRaisesIllegal_b :
    Reference.IllegalEncoding 0x00000020#32 ∧ Reference.IllegalEncoding 0x00040208#32 ∧
    Reference.IllegalEncoding 0x00400029#32 ∧ Reference.IllegalEncoding 0x8850D2EA#32 ∧
    Reference.IllegalEncoding 0x0000400B#32 :=
  ⟨by decide, by decide, by decide, by decide, by decide⟩
theorem witness_IllegalEncodingRaisesIllegal_c :
    Reference.IllegalEncoding 0x00000188#32 ∧ Reference.IllegalEncoding 0x00380009#32 ∧
    Reference.IllegalEncoding 0x00381E2A#32 := ⟨by decide, by decide, by decide⟩
theorem witness_IllegalEncodingRaisesIllegal_legal :
    ¬ Reference.IllegalEncoding 0x00000148#32 ∧ ¬ Reference.IllegalEncoding 0x00003FEB#32 := by decide
theorem witness_DecodedFieldsAreTheFormatsBits :
    decode 0x00000004#32 = .instr .imul ∧ decode 0x00002A68#32 = .instr (.decomp half) ∧
    decode 0x08500009#32 = .instr (.recomp q15) ∧
    decode 0x0850D2EA#32 = .instr (.cvt double q15) ∧ decode 0x00003FEB#32 = .instr (.rndsh 511) := by
  decide
theorem witness_AssemblerReadsCommandText :
    (Instr.rndsh 511).wellFormed = true ∧ (Instr.decomp ⟨.fixed, .w8, false, 255⟩).wellFormed = true := by
  decide
theorem witness_LegalParametersPerWidth :
    (Descriptor.mk .fixed .w8 true 7).valid = true ∧ (Descriptor.mk .fixed .w8 true 8).valid = false ∧
    (Descriptor.mk .float .w8 true 6).valid = true ∧ (Descriptor.mk .float .w8 true 7).valid = false := by
  decide
theorem witness_CommandWriteRunsDecoded :
    (pendingAt (.access (.write 0x08#8 32 0x0000014B#32))).pending =
      .access (.write 0x08#8 32 0x0000014B#32) :: [] ∧ decode 0x0000014B#32 = .instr (.rndsh 10) := by
  decide
theorem witness_ReadsReturnTheRegisterMap :
    (pendingAt (.access (.read 0x8C#8 32))).pending = .access (.read 0x8C#8 32) :: [] ∧
    (0x8C#8).toNat % 4 = 0 := by decide
theorem witness_WritesStoreTheirWordOnly :
    (pendingAt (.access (.write 0x1C#8 32 5#32))).pending = .access (.write 0x1C#8 32 5#32) :: [] ∧
    (0x1C#8).toNat % 4 = 0 := by decide
/-- The boundary offsets of the clauses, each under one clause. -/
theorem witness_WritesStoreTheirWordOnly_clauses :
    (0x04#8).toNat ≤ 0x04 ∧ (0x0C#8).toNat = 0x0C ∧ (0x10 ≤ (0x1C#8).toNat ∧ (0x1C#8).toNat ≤ 0x1C) ∧
    (0x20 ≤ (0x20#8).toNat ∧ (0x20#8).toNat ≤ 0x2C) ∧ (0x30 ≤ (0x3C#8).toNat ∧ (0x3C#8).toNat ≤ 0x3C) ∧
    (0x40#8).toNat = 0x40 ∧ (0x44 ≤ (0x4C#8).toNat ∧ (0x4C#8).toNat ≤ 0x4C) ∧
    (0x50 ≤ (0x6C#8).toNat ∧ (0x6C#8).toNat ≤ 0x6C) ∧ (0x70 ≤ (0x70#8).toNat ∧ (0x70#8).toNat ≤ 0x8C) ∧
    0x90 ≤ (0x90#8).toNat := by decide
theorem witness_ReadBackReturnsTheWordWritten :
    (State.reset.withPending [.access (.write 0x08#8 32 5#32), .access (.read 0x08#8 32)]).pending =
      .access (.write 0x08#8 32 5#32) :: .access (.read 0x08#8 32) :: [] ∧ (0x08#8).toNat % 4 = 0 ∧
    (0x10 ≤ (0x2C#8).toNat ∧ (0x2C#8).toNat ≤ 0x2C) ∧ (0x50 ≤ (0x8C#8).toNat ∧ (0x8C#8).toNat ≤ 0x8C) := by
  decide
theorem witness_ResetGivesEveryRegisterItsResetValue :
    (pendingAt (.reset none)).pending = .reset none :: [] ∧
    (pendingAt (.reset (some (.read 0x10#8 32)))).pending = .reset (some (.read 0x10#8 32)) :: [] := by
  decide
theorem witness_ResetKeepsTheBusGoing :
    (pendingAt (.reset (some (.write 0x08#8 32 1#32)))).pending =
      .reset (some (.write 0x08#8 32 1#32)) :: [] ∧
    (pendingAt (.reset (some (.read 0x10#8 32)))).pending = .reset (some (.read 0x10#8 32)) :: [] := by
  decide
theorem witness_IdleHoldsItsRegisters : (withA 5).pending = [] := by decide
theorem witness_SecondMasterLeavesTheHostsAccesses :
    (State.reset.withPending [.otherMaster, .access (.read 0x00#8 32)]).pending =
      .otherMaster :: [.access (.read 0x00#8 32)] := by decide
theorem witness_IntegerCommandsFrame :
    (withA 0xFFFFFFFF000000000000000000000001).a.toNat % 2 ^ 96 = (withA 1).a.toNat % 2 ^ 96 ∧
    (withA 0xFFFFFFFF000000000000000000000001).b.toNat % 2 ^ 96 = (withA 1).b.toNat % 2 ^ 96 := by
  decide
theorem witness_IntegerCommandsAreSignedToo :
    let a := ((withAB 5 7).a.extractLsb' 0 96).toInt
    let b := ((withAB 5 7).b.extractLsb' 0 96).toInt
    Instr.isub = .isub ∧ (-2 : Int) = a - b ∧ (12 : Int) = a + b ∧ (-5 : Int) = -a ∧
      (35 : Int) = a * b := by decide
theorem witness_DecompOfFixedWord : q15.kind = .fixed ∧ q15.valid = true := by decide
/-- A half of each class: the boundary exponents of the clauses (95_test_vectors.md 2.2). -/
theorem witness_DecompOfFloatWord :
    half.kind = .float ∧ half.valid = true ∧ Reference.floatExp half 0x0400#128 = 1 ∧
    Reference.floatExp half 0x7BFF#128 = half.emax - 1 ∧ Reference.floatExp half 0x03FF#128 = 0 ∧
    Reference.floatExp half 0x7C00#128 = half.emax := by decide
theorem witness_DecompositionIsExact :
    half.valid = true ∧ ¬ Reference.NonFinite (Reference.wordClass half (withA 0x3E00).a) := by decide
theorem witness_DecompositionFitsItsRegisters : (Descriptor.mk .float .w128 false 1).valid = true := by decide
/-- A shift beyond the bits of the magnitude, and one that is not. -/
theorem witness_RneIsTheRule : 0 < 2 ∧ bitlen 3 < 5 ∧ ¬ bitlen (2 ^ 255) < 256 := by decide
theorem witness_RneRoundsToNearestEven :
    0 < 2 ∧ 10 % 2 ^ 2 = 2 ^ (2 - 1) ∧ 14 % 2 ^ 2 = 2 ^ (2 - 1) ∧ (5 : Int) ≠ rne 10 2 := by decide
theorem witness_RneIsMonotonicAndBounded : 10 ≤ 14 ∧ 1 ≤ 2 ∧ 14 < 2 ^ 256 := by decide
theorem witness_RndshRoundsTheMagnitude : 511 < 512 ∧ 257 ≤ 511 ∧ 256 < 512 ∧ 0 < 512 := by decide
theorem witness_FixedRecomposeIsTheRule : q15.kind = .fixed ∧ q15.valid = true := by decide
theorem witness_FloatRecomposeIsTheRule : half.kind = .float ∧ half.valid = true := by decide
theorem witness_RecompWritesTheRecomposedWord : half.valid = true ∧ q15.valid = true := by decide
theorem witness_FormatResultsFitTheirWidth : q15.valid = true ∧ half.valid = true := by decide
theorem witness_FixedRecomposeRoundsOnce : q15.kind = .fixed ∧ q15.valid = true := by decide
theorem witness_FloatRecomposeRoundsOnce :
    half.kind = .float ∧ half.valid = true ∧ half.signed = true ∧
    nextOf (exec (.recomp half) (withDecomposition 1 5 0)) =
      some { withDecomposition 1 5 0 with r := 0xC500#128, status := 0x300#32 } ∧
    ¬ Reference.NonFinite (Reference.wordClass half 0xC500#128) ∧
    ¬ Reference.NonFinite (Reference.wordClass half 0xC501#128) := by decide
/-- The other form of the premise: an unsigned destination and DS = 0 (`flt.u16` of 3, 41_decompose.md R121:
m = 11, bias 15, so b = 16 and t = 2^10). -/
theorem witness_FloatRecomposeRoundsOnce_unsigned :
    let d : Descriptor := ⟨.float, .w16, false, 0⟩
    d.kind = .float ∧ d.valid = true ∧ d.signed = false ∧ (withDecomposition 0 3 0).ds = 0#1 ∧
    nextOf (exec (.recomp d) (withDecomposition 0 3 0)) =
      some { withDecomposition 0 3 0 with r := 0x8400#128, status := 0x300#32 } ∧
    ¬ Reference.NonFinite (Reference.wordClass d 0x8400#128) ∧
    ¬ Reference.NonFinite (Reference.wordClass d 0x8401#128) := by decide
/-- Both forms of the threshold: an exponent width of 5 and one of 1. -/
theorem witness_FloatOverflowThreshold :
    half.kind = .float ∧ half.valid = true ∧ half.expBits = 5 ∧
    (Descriptor.mk .float .w8 true 6).valid = true ∧ (Descriptor.mk .float .w8 true 6).expBits = 1 := by
  decide
theorem witness_NegativeIntoUnsignedGivesZero :
    (Descriptor.mk .fixed .w8 false 4).valid = true ∧ (Descriptor.mk .fixed .w8 false 4).signed = false ∧
    (withDecomposition 1 1 0).ds = 1#1 ∧ (Descriptor.mk .float .w16 false 0).valid = true := by decide
theorem witness_CvtOfFiniteWord :
    double.valid = true ∧ q15.valid = true ∧
    ¬ Reference.NonFinite (Reference.wordClass double (withA 0x400C000000000000).a) := by decide
theorem witness_CvtOfInfinityAndNan :
    half.valid = true ∧ q15.valid = true ∧ q15.kind = .fixed ∧ double.kind = .float ∧
    Reference.wordClass half (withA 0x7E00).a = .nan ∧
    Reference.wordClass half (withA 0xFC00).a = .infinity ∧
    Reference.floatSign half (withA 0xFC00).a = true ∧
    (Descriptor.mk .float .w16 false 0).valid = true ∧
    (Descriptor.mk .float .w16 false 0).signed = false := by decide
theorem witness_CvtIsDecompThenRecomp :
    half.valid = true ∧ double.valid = true ∧
    ¬ Reference.NonFinite (Reference.wordClass half (withA 0x8000).a) := by decide
theorem witness_ConversionToTheSameFormatIsIdentity :
    half.valid = true ∧ ¬ Reference.NonFinite (Reference.wordClass half (withA 0x3C00).a) := by decide
/-- 95_test_vectors.md section 1: s16.8 through s32.16. -/
theorem witness_RescaleIsIdempotent :
    let d : Descriptor := ⟨.fixed, .w16, true, 8⟩
    d.kind = .fixed ∧ q15.kind = .fixed ∧ d.valid = true ∧ q15.valid = true ∧
    d.fracBits ≤ q15.fracBits ∧ d.signBits ≤ q15.signBits ∧
    d.bits - d.signBits - d.fracBits ≤ q15.bits - q15.signBits - q15.fracBits := by decide
theorem witness_InvalidDescriptorRaisesConfig :
    Reference.UsesInvalidFormat (.decomp noExponent) ∧
    ¬ Reference.UsesInvalidFormat (.decomp half) ∧
    Reference.UsesInvalidFormat (.cvt half ⟨.fixed, .w8, true, 9⟩) := by
  simp [Reference.UsesInvalidFormat, Reference.InvalidFormat, noExponent, half, Width.bits]
theorem witness_ErrorsChangeStatusAlone :
    (pendingAt (.access (.write 0x08#8 32 0x1E28#32))).pending =
      .access (.write 0x08#8 32 0x1E28#32) :: [] ∧
    (nextOf (step (pendingAt (.access (.write 0x08#8 32 0x1E28#32))))).map
      (fun t => statusErr t.status) = some 2#4 := by decide
theorem witness_FirstErrorThatAppliesIsReported :
    (pendingAt (.access (.write 0x08#8 32 0x08502A6A#32))).pending =
      .access (.write 0x08#8 32 0x08502A6A#32) :: [] ∧
    decode 0x08502A6A#32 = .instr (.cvt half q15) ∧ q15.kind = .fixed ∧
    Reference.NonFinite (Reference.wordClass half (withA 0x7C00).a) := by decide
theorem witness_CommandsWriteOnlyTheirRegisters :
    (∀ src, Instr.nop ≠ .decomp src) ∧ (∀ k, Instr.nop ≠ .rndsh k) := by
  constructor <;> intro _ h <;> cases h
theorem witness_CommandsReadOnlyTheirOperands :
    (withA 0xFFFF3E00).a.toNat % 2 ^ half.bits = (withA 0x3E00).a.toNat % 2 ^ half.bits ∧
    (withA 5).ds = (withA 6).ds ∧ (withA 5).dm = (withA 6).dm ∧ (withA 5).de = (withA 6).de := by decide
theorem witness_CommandsButRndshAreIdempotent :
    (∀ k, Instr.iadd ≠ .rndsh k) ∧
    nextOf (exec .iadd (withAB 1 2)) = some { withAB 1 2 with r := 3#128 } :=
  ⟨fun _ h => (by cases h), by decide⟩
/-- The invariant holds of the reset state with a command pending, which steps. -/
theorem witness_StatusReportsTheCommandInvariant :
    Inv (pendingAt (.access (.write 0x08#8 32 0x00000005#32))) ∧
    (nextOf (step (pendingAt (.access (.write 0x08#8 32 0x00000005#32))))).map State.status =
      some 1#32 :=
  ⟨⟨by decide, by decide, rfl⟩, by decide⟩
theorem witness_ServedAccessesNeverFault :
    BusSafe (pendingAt (.access (.read 0x10#8 32))) := by decide

end Sys2Proof.Tests
end

section
/-! SUPPORT. What every command leaves as it was and which STATUS it leaves, and from them the statements
about the whole machine (spec/10_state.md R20 to R30, spec/60_exceptions.md R200 to R212). -/

namespace Sys2Proof.Machine

/-! ### What a command changes -/

/-- Settles O52: each command ends in one of the shared operations, whose frames `Laws/Ops` gives. -/
theorem commandsWriteOnlyTheirRegisters : Obligations.CommandsWriteOnlyTheirRegisters := by
  intro i s
  cases i with
  | nop | iadd | isub | ineg | imul => exact ⟨_, rfl, by simp⟩
  | decomp src =>
    cases hv : src.valid with
    | false => exact ⟨_, execDecomp_invalid hv s, by simp⟩
    | true => exact ⟨_, execDecomp_valid hv s, by simp⟩
  | recomp dst =>
    cases hv : dst.valid with
    | false => exact ⟨_, execRecomp_invalid hv s, by simp⟩
    | true => exact ⟨_, execRecomp_valid hv s, by simp⟩
  | cvt src dst =>
    obtain ⟨-, h⟩ | ⟨-, -, -, h⟩ | ⟨raw, -, -, -, h⟩ := execCvt_cases src dst s
    · exact ⟨_, h, by simp⟩
    · exact ⟨_, h, by simp⟩
    · exact ⟨_, h, by simp⟩
  | rndsh k => exact ⟨_, rfl, by simp⟩

/-- A command leaves CMD and the host's side of the bus (R30, R48). -/
theorem exec_keeps_cmd_bus {i : Instr} {s t : State} (h : exec i s = .next t) :
    t.cmd = s.cmd ∧ t.pending = s.pending ∧ t.replies = s.replies := by
  obtain ⟨u, hu, -, -, hcmd, hpending, hreplies, -⟩ := commandsWriteOnlyTheirRegisters i s
  obtain rfl : t = u := by simpa [h] using hu
  exact ⟨hcmd, hpending, hreplies⟩

/-- Settles O54: every arm ends by overwriting STATUS and reads it nowhere. -/
theorem statusIsNotSticky : Obligations.StatusIsNotSticky := by
  intro i s st
  cases i with
  | nop | iadd | isub | ineg | imul | decomp src | recomp dst | cvt src dst | rndsh k => rfl

/-- Settles O10: the write of CMD is the step, and the word stored is the word decoded. -/
theorem commandWriteRunsDecoded : Obligations.CommandWriteRunsDecoded := by
  intro s w i rest hp hd
  rw [step_cmd_write hp, executeWord_instr hd]
  rfl

/-! ### The STATUS a command leaves -/

/-- The class of a word is one its format has (R120, R122). -/
theorem classFits_classOf (d : Descriptor) (raw : Nat) : classFits d (classOf d raw) = true := by
  cases hk : d.kind with
  | fixed => by_cases h0 : fixedInt d raw = 0 <;> simp [classFits, classOf, fixedClass, hk, h0]
  | float =>
    simp only [classFits, classOf, floatClass, hk]
    split_ifs <;> rfl

theorem kind_eq_float_of_nonFinite {d : Descriptor} {raw : Nat}
    (h : classOf d raw = .infinity ∨ classOf d raw = .nan) : d.kind = .float := by
  have hfit := classFits_classOf d raw
  cases hk : d.kind with
  | float => rfl
  | fixed => obtain h | h := h <;> simp [classFits, hk, h] at hfit

/-- Every command leaves a STATUS that the command can leave (R28, R145). -/
theorem exec_statusAfter {i : Instr} {s t : State} (h : exec i s = .next t) :
    StatusAfter i t.status := by
  suffices hex : ∃ u, exec i s = .next u ∧ StatusAfter i u.status by
    obtain ⟨u, hu, hst⟩ := hex
    obtain rfl : t = u := by simpa [h] using hu
    exact hst
  cases i with
  | nop | iadd | isub | ineg | imul | rndsh k => exact ⟨_, rfl, rfl⟩
  | decomp src =>
    cases hv : src.valid with
    | false => exact ⟨_, execDecomp_invalid hv s, by simp [StatusAfter, hv]⟩
    | true =>
      refine ⟨_, execDecomp_valid hv s, ?_⟩
      simpa [StatusAfter, hv] using ⟨_, decompose_cls src _ ▸ classFits_classOf src _, rfl⟩
  | recomp dst =>
    cases hv : dst.valid with
    | false => exact ⟨_, execRecomp_invalid hv s, by simp [StatusAfter, hv]⟩
    | true =>
      refine ⟨_, execRecomp_valid hv s, ?_⟩
      simpa [StatusAfter, hv] using ⟨_, classFits_classOf dst _, rfl⟩
  | cvt src dst =>
    have hcls := decompose_cls src (rawView src s.a)
    obtain ⟨hv, he⟩ | ⟨hs, hd, hc, he⟩ | ⟨raw, hs, hd, -, he⟩ := execCvt_cases src dst s
    · exact ⟨_, he, by simp [StatusAfter, hv]⟩
    · obtain ⟨hnf, hk⟩ := (convert_eq_none dst _).mp hc
      rw [hcls] at hnf he
      refine ⟨_, he, ?_⟩
      simp only [StatusAfter, hs, hd, Bool.and_self, if_true, raise_status]
      exact .inr ⟨kind_eq_float_of_nonFinite hnf, hk, _, hnf, rfl⟩
    · rw [hcls] at he
      refine ⟨_, he, ?_⟩
      simp only [StatusAfter, hs, hd, Bool.and_self, if_true, finishFormat_status]
      exact .inl ⟨_, _, classFits_classOf src _, classFits_classOf dst _, rfl⟩

/-- Every STATUS a command can leave is one `mkStatus` builds (R28). -/
theorem StatusAfter.eq_mkStatus {i : Instr} {status : Word} (h : StatusAfter i status) :
    ∃ e c c', status = mkStatus e c c' := by
  cases i with
  | nop | iadd | isub | ineg | imul | rndsh k => exact ⟨_, _, _, h⟩
  | decomp src =>
    simp only [StatusAfter] at h
    split at h
    · obtain ⟨c, -, hst⟩ := h
      exact ⟨_, _, _, hst⟩
    · exact ⟨_, _, _, h⟩
  | recomp dst =>
    simp only [StatusAfter] at h
    split at h
    · obtain ⟨c, -, hst⟩ := h
      exact ⟨_, _, _, hst⟩
    · exact ⟨_, _, _, h⟩
  | cvt src dst =>
    simp only [StatusAfter] at h
    split at h
    · obtain ⟨c, c', -, -, hst⟩ | ⟨-, -, c, -, hst⟩ := h
      · exact ⟨_, _, _, hst⟩
      · exact ⟨_, _, _, hst⟩
    · exact ⟨_, _, _, h⟩

/-! ### The invariant of a WNE with one host -/

/-- Where CMD holds no command, STATUS reports it as ILLEGAL (R201). -/
theorem statusReportsCmd_of_illegal {s : State} {why : IllegalWord} (hd : decode s.cmd = .illegal why) :
    StatusReportsCmd s ↔ s.status = mkStatus .illegal .none .none := by
  simp [StatusReportsCmd, hd]

/-- Where CMD holds a command, STATUS is a value that command can leave (R28, R30). -/
theorem statusReportsCmd_of_instr {s : State} {i : Instr} (hd : decode s.cmd = .instr i) :
    StatusReportsCmd s ↔ StatusAfter i s.status := by
  simp [StatusReportsCmd, hd]

/-- A STATUS that reports a command word is legal, so the invariant's middle part follows from its last. -/
theorem StatusReportsCmd.statusLegal {s : State} (h : StatusReportsCmd s) : StatusLegal s.status := by
  cases hd : decode s.cmd with
  | illegal why =>
    rw [(statusReportsCmd_of_illegal hd).mp h]
    exact statusLegal_mkStatus _ _ _
  | instr i =>
    obtain ⟨e, c, c', hst⟩ := ((statusReportsCmd_of_instr hd).mp h).eq_mkStatus
    rw [hst]
    exact statusLegal_mkStatus _ _ _

theorem inv_iff (s : State) : Inv s ↔ SingleHost s ∧ StatusReportsCmd s :=
  ⟨fun ⟨hone, _, hrep⟩ => ⟨hone, hrep⟩, fun ⟨hone, hrep⟩ => ⟨hone, hrep.statusLegal, hrep⟩⟩

/-- The invariant sees STATUS, CMD and the pending events only. -/
theorem Inv.of_eq {s t : State} (hs : Inv s) (hstatus : t.status = s.status) (hcmd : t.cmd = s.cmd)
    (hpending : t.pending = s.pending) : Inv t := by
  simpa [Inv, SingleHost, StatusReportsCmd, hstatus, hcmd, hpending] using hs

/-- The execution of a word leaves CMD and the host's side of the bus. -/
theorem executeWord_completes (s : State) (v : Word) : ∃ t, executeWord s v = .next t ∧
    t.cmd = s.cmd ∧ t.pending = s.pending ∧ t.replies = s.replies := by
  cases hd : decode v with
  | illegal why => exact ⟨_, executeWord_illegal hd s, rfl, rfl, rfl⟩
  | instr i =>
    obtain ⟨t, ht, -⟩ := commandsWriteOnlyTheirRegisters i s
    exact ⟨t, (executeWord_instr hd s).trans ht, exec_keeps_cmd_bus ht⟩

/-- The execution of the word CMD holds ends with a STATUS that reports it (R30, R201). -/
theorem executeWord_reportsCmd {s t : State} {v : Word} (hv : s.cmd = v)
    (h : executeWord s v = .next t) : StatusReportsCmd t := by
  obtain ⟨u, hu, hcmd, -⟩ := executeWord_completes s v
  obtain rfl : t = u := by simpa [h] using hu
  rw [hv] at hcmd
  cases hd : decode v with
  | illegal why =>
    rw [statusReportsCmd_of_illegal (hcmd ▸ hd)]
    rw [executeWord_illegal hd] at h
    injection h with h
    rw [← h, raise_status]
  | instr i =>
    rw [statusReportsCmd_of_instr (hcmd ▸ hd)]
    exact exec_statusAfter ((executeWord_instr hd s).symm.trans h)

/-- No host store changes STATUS or what waits on the bus (R46). -/
@[simp] theorem storeWord_status (s : State) (x : RegWord) (v : Word) :
    (storeWord s x v).status = s.status := by
  cases x <;> rfl

@[simp] theorem storeWord_pending (s : State) (x : RegWord) (v : Word) :
    (storeWord s x v).pending = s.pending := by
  cases x <;> rfl

@[simp] theorem storeWord_replies (s : State) (x : RegWord) (v : Word) :
    (storeWord s x v).replies = s.replies := by
  cases x <;> rfl

theorem storeWord_cmd_of_ne {x : RegWord} (hx : x ≠ .cmd) (s : State) (v : Word) :
    (storeWord s x v).cmd = s.cmd := by
  cases x with
  | cmd => exact absurd rfl hx
  | _ => rfl

/-- A served write keeps the invariant: it leaves STATUS and CMD, or it runs the word it puts in CMD. -/
theorem writeWindow_keeps_inv {s t : State} {off : BitVec 8} {v : Word} (hs : Inv s)
    (h : writeWindow s off v = .next t) : Inv t := by
  obtain ⟨-, hw⟩ | ⟨-, hw⟩ | ⟨x, -, hx, hw⟩ := writeWindow_cases s off v <;> rw [hw] at h
  · injection h with h
    exact h ▸ hs
  · obtain ⟨u, hu, -, hpending, -⟩ := executeWord_completes (s.withCmd v) v
    obtain rfl : t = u := by simpa [h] using hu
    refine (inv_iff t).mpr ⟨?_, executeWord_reportsCmd rfl h⟩
    simpa [SingleHost, hpending] using hs.1
  · injection h with h
    subst h
    exact hs.of_eq (storeWord_status s x v) (storeWord_cmd_of_ne hx s v) (storeWord_pending s x v)

theorem serve_keeps_inv {s t : State} {a : Access} (hs : Inv s) (h : serve s a = .next t) : Inv t := by
  cases a with
  | read off width =>
    cases hv : servable off width with
    | false => simp [serve_read_fault hv] at h
    | true =>
      rw [serve_read hv] at h
      injection h with h
      exact h ▸ hs.of_eq rfl rfl rfl
  | write off width v =>
    cases hv : servable off width with
    | false => simp [serve_write_fault hv] at h
    | true => exact writeWindow_keeps_inv hs (serve_write hv s v ▸ h)

/-- The reset state's STATUS 0 is what its CMD word 0, NOP, leaves (R220). -/
theorem resetRegisters_inv {s : State} (hone : SingleHost s) : Inv (resetRegisters s) :=
  (inv_iff _).mpr
    ⟨hone, (statusReportsCmd_of_instr (i := .nop) (by rw [resetRegisters_cmd]; decide)).mpr rfl⟩

theorem applyReset_inv {s : State} (hone : SingleHost s) (cut : Option Access) :
    Inv (applyReset s cut) := by
  have hr := resetRegisters_inv hone
  match cut with
  | none => exact hr
  | some (.read _ _) => exact hr.of_eq rfl rfl rfl
  | some (.write _ _ _) => exact hr

theorem handle_keeps_inv {s t : State} {e : Event} (he : e ≠ .otherMaster) (hs : Inv s)
    (h : handle s e = .next t) : Inv t := by
  cases e with
  | access a => exact serve_keeps_inv hs h
  | reset cut =>
    injection h with h
    exact h ▸ applyReset_inv hs.1 cut
  | otherMaster => exact absurd rfl he

/-- Settles O56: the step takes the oldest event, which is not a second master's, and every other event
keeps the invariant. -/
theorem statusReportsTheCommandInvariant : Obligations.StatusReportsTheCommandInvariant := by
  intro s t hs h
  cases hp : s.pending with
  | nil =>
    rw [step_idle hp] at h
    injection h with h
    exact h ▸ hs
  | cons e rest =>
    obtain ⟨hone, hlegal, hrep⟩ := hs
    obtain ⟨he, hrest⟩ : e ≠ .otherMaster ∧ Event.otherMaster ∉ rest := by
      simpa [SingleHost, hp, eq_comm] using hone
    have hwait : Inv (s.withPending rest) := ⟨hrest, hlegal, hrep⟩
    exact handle_keeps_inv he hwait (step_event hp ▸ h)

/-! ### Reading back -/

/-- The words of the window in which a host's write is kept whole: CMD, A, B, DM and DE (R41, R46). -/
def RegWord.keepsWrite : RegWord → Bool
  | .cmd | .a _ | .b _ | .dm _ | .de _ => true
  | .id | .status | .rs _ | .ds => false

/-- A word that keeps the host's write reads back as written (R46). -/
theorem readWord_storeWord_same {x : RegWord} (hx : x.keepsWrite = true) (s : State) (v : Word) :
    readWord (storeWord s x v) x = v := by
  cases x with
  | cmd => rfl
  | a n | b n | dm n | de n => exact getWord_setWord_same _ _ _ (by omega)
  | id | status | rs n | ds => cases hx

/-- An aligned offset from `base` on is that of word number (offset - base) / 4 (R41, R44). -/
theorem eq_ofNat_base_add_word {off : BitVec 8} {base : Nat} (halign : off.toNat % 4 = 0)
    (hbase : base % 4 = 0) (hle : base ≤ off.toNat) :
    off = BitVec.ofNat 8 (base + 4 * ((off.toNat - base) / 4)) := by
  have hword : base + 4 * ((off.toNat - base) / 4) = off.toNat := by omega
  rw [hword, BitVec.ofNat_toNat, BitVec.setWidth_eq]

/-- The offsets of the words that keep a write (R41). -/
theorem exists_offset_keepsWrite {off : BitVec 8} (halign : off.toNat % 4 = 0)
    (h : off.toNat = 0x08 ∨ (0x10 ≤ off.toNat ∧ off.toNat ≤ 0x2C) ∨
      (0x50 ≤ off.toNat ∧ off.toNat ≤ 0x8C)) :
    ∃ x : RegWord, off = x.offset ∧ x.keepsWrite = true := by
  obtain hcmd | ha | hb | hdm | hde : off.toNat = 0x08 ∨
      (0x10 ≤ off.toNat ∧ off.toNat < 0x20) ∨ (0x20 ≤ off.toNat ∧ off.toNat < 0x30) ∨
      (0x50 ≤ off.toNat ∧ off.toNat < 0x70) ∨ (0x70 ≤ off.toNat ∧ off.toNat < 0x90) := by omega
  · exact ⟨.cmd, BitVec.eq_of_toNat_eq hcmd, rfl⟩
  · exact ⟨.a ⟨(off.toNat - 0x10) / 4, by omega⟩, eq_ofNat_base_add_word halign rfl ha.1, rfl⟩
  · exact ⟨.b ⟨(off.toNat - 0x20) / 4, by omega⟩, eq_ofNat_base_add_word halign rfl hb.1, rfl⟩
  · exact ⟨.dm ⟨(off.toNat - 0x50) / 4, by omega⟩, eq_ofNat_base_add_word halign rfl hdm.1, rfl⟩
  · exact ⟨.de ⟨(off.toNat - 0x70) / 4, by omega⟩, eq_ofNat_base_add_word halign rfl hde.1, rfl⟩

/-- A write to a word that keeps it, then served, leaves that word reading as written and the host's side
of the bus as it was (R46, R48). -/
theorem writeWindow_readWord {x : RegWord} (hk : x.keepsWrite = true) (s : State) (v : Word) :
    ∃ t, writeWindow s x.offset v = .next t ∧ readWord t x = v ∧ t.pending = s.pending ∧
      t.replies = s.replies := by
  obtain ⟨hnone, -⟩ | ⟨hcmd, hw⟩ | ⟨y, hy, -, hw⟩ := writeWindow_cases s x.offset v
  · simp at hnone
  · obtain rfl : x = .cmd := by simpa using hcmd
    obtain ⟨t, ht, hcmd, hbus⟩ := executeWord_completes (s.withCmd v) v
    exact ⟨t, hw.trans ht, hcmd, hbus⟩
  · obtain rfl : x = y := by simpa using hy
    exact ⟨_, hw, readWord_storeWord_same hk s v, storeWord_pending s x v, storeWord_replies s x v⟩

/-- Settles O15: the write leaves the word reading as written, and the read answers with it. -/
theorem readBackReturnsTheWordWritten : Obligations.ReadBackReturnsTheWordWritten := by
  intro s off v rest hp halign hoff
  obtain ⟨x, rfl, hk⟩ := exists_offset_keepsWrite halign hoff
  have hserv : servable x.offset 32 = true := (servable_iff _ _).mpr ⟨rfl, halign⟩
  obtain ⟨t, ht, hread, hpend, hrep⟩ :=
    writeWindow_readWord hk (s.withPending (.access (.read x.offset 32) :: rest)) v
  refine ⟨t, (t.withPending rest).reply v, ?_, ?_, ?_, rfl⟩
  · rw [step_event hp, handle, serve_write hserv, ht]
  · have hwin : readWindow (t.withPending rest) x.offset = v := by
      rw [readWindow, wordAt_offset]
      exact hread
    rw [step_event hpend, handle, serve_read hserv, hwin]
  · simp [hrep]

end Sys2Proof.Machine
end

section
/-! SUPPORT. What a valid descriptor fixes, the fields of a raw word as bits of A, and the decomposer
(spec/30_encoding.md R68 to R71, spec/41_decompose.md R120 to R126). -/

namespace Sys2Proof.Machine

/-! ### The counts of a descriptor -/

theorem bits_pos (d : Descriptor) : 0 < d.bits := by
  unfold Descriptor.bits
  cases d.width <;> decide

theorem bits_le (d : Descriptor) : d.bits ≤ 128 := by
  unfold Descriptor.bits
  cases d.width <;> decide

/-- A valid fixed-point descriptor has no more fractional bits than bits (R69). -/
theorem fracBits_le {d : Descriptor} (hk : d.kind = .fixed) (hv : d.valid = true) :
    d.fracBits + d.signBits ≤ d.bits := by
  simpa [Descriptor.valid, hk] using hv

/-- A valid float word is its sign, exponent and mantissa fields, the last two not empty (R70). -/
theorem float_layout {d : Descriptor} (hk : d.kind = .float) (hv : d.valid = true) :
    d.signBits + d.expBits + d.mantBits = d.bits ∧ 1 ≤ d.mantBits ∧ 1 ≤ d.expBits := by
  simp only [Descriptor.valid, hk, decide_eq_true_eq] at hv
  unfold Descriptor.expBits
  omega

/-! ### The fields of a raw word -/

/-- The low W bits of A, as a number, are the storage view (R21). -/
theorem toNat_extractLsb'_bits (d : Descriptor) (x : Word128) :
    (x.extractLsb' 0 d.bits).toNat = rawView d x := by
  simp [rawView]

theorem rawView_lt (d : Descriptor) (x : Word128) : rawView d x < 2 ^ d.bits :=
  Nat.mod_lt _ (Nat.two_pow_pos _)

/-- `sint_W` of a word is its value as a two's complement number (00_scope.md R9). -/
theorem toInt_eq_signedOf {w : Nat} (hw : 0 < w) (x : BitVec w) : x.toInt = signedOf w x.toNat := by
  have hpow : 2 ^ w = 2 * 2 ^ (w - 1) := by
    rw [← Nat.pow_succ', Nat.succ_eq_add_one, Nat.sub_add_cancel hw]
  rw [BitVec.toInt_eq_toNat_cond, signedOf]
  by_cases h : 2 ^ (w - 1) ≤ x.toNat
  · rw [if_pos h, if_neg (by omega), Nat.cast_pow, Nat.cast_two]
  · rw [if_neg h, if_pos (by omega)]

/-- iv of the storage view (R120). -/
theorem fixedInt_rawView (d : Descriptor) (x : Word128) :
    fixedInt d (rawView d x) = Reference.fixedInteger d x := by
  rw [fixedInt, Reference.fixedInteger, toInt_eq_signedOf (bits_pos d), toNat_extractLsb'_bits]

/-- The sign field of the storage view (R121). -/
theorem signField_rawView (d : Descriptor) (x : Word128) :
    signField d (rawView d x) = Reference.floatSign d x := by
  have htop : d.bits - 1 < d.bits := Nat.sub_one_lt_of_lt (bits_pos d)
  have hbit : (rawView d x).testBit (d.bits - 1) = x.getLsbD (d.bits - 1) := by
    rw [rawView, Nat.testBit_mod_two_pow, BitVec.testBit_toNat, decide_eq_true htop, Bool.true_and]
  rw [signField, Reference.floatSign, ← hbit, Nat.testBit_eq_decide_div_mod_eq]
  rfl

section
variable {d : Descriptor} (hk : d.kind = .float) (hv : d.valid = true)
include hk hv

/-- The exponent field of the storage view lies within it (R121). -/
theorem expField_rawView (x : Word128) : expField d (rawView d x) = Reference.floatExp d x := by
  obtain ⟨hlen, -, -⟩ := float_layout hk hv
  have hsplit : 2 ^ d.bits = 2 ^ d.mantBits * 2 ^ (d.signBits + d.expBits) := by
    rw [← Nat.pow_add]
    congr 1
    omega
  rw [expField, rawView, hsplit, Nat.mod_mul_right_div_self,
    Nat.mod_mod_of_dvd _ (Nat.pow_dvd_pow 2 (by omega)), Reference.floatExp, BitVec.extractLsb'_toNat,
    Nat.shiftRight_eq_div_pow]

/-- The mantissa field of the storage view lies within it (R121). -/
theorem mantField_rawView (x : Word128) : mantField d (rawView d x) = Reference.floatMant d x := by
  obtain ⟨hlen, -, -⟩ := float_layout hk hv
  rw [mantField, rawView, Nat.mod_mod_of_dvd _ (Nat.pow_dvd_pow 2 (by omega)), Reference.floatMant,
    BitVec.extractLsb'_toNat, Nat.shiftRight_zero]

/-- The largest exponent field is not 0: a word with exponent field 1 is in range (R70). -/
theorem emax_pos : 0 < d.emax := by
  obtain ⟨-, -, he⟩ := float_layout hk hv
  have := Nat.one_lt_two_pow (n := d.expBits) (by omega)
  unfold Descriptor.emax
  omega

end

/-- The class of the storage view (R120, R122, R148). -/
theorem classOf_rawView {d : Descriptor} (hv : d.valid = true) (x : Word128) :
    classOf d (rawView d x) = Reference.wordClass d x := by
  cases hk : d.kind with
  | fixed => simp [classOf, Reference.wordClass, hk, fixedClass, fixedInt_rawView]
  | float =>
    simp only [classOf, Reference.wordClass, hk, floatClass, expField_rawView hk hv,
      mantField_rawView hk hv]
    by_cases h0 : Reference.floatExp d x = 0
    · simp [h0]
    by_cases h1 : Reference.floatExp d x = d.emax
    · simp [h1, h1 ▸ h0]
    · simp [h0, h1]

theorem expField_lt (d : Descriptor) (raw : Nat) : expField d raw < 2 ^ d.expBits :=
  Nat.mod_lt _ (Nat.two_pow_pos _)

theorem mantField_lt (d : Descriptor) (raw : Nat) : mantField d raw < 2 ^ d.mantBits :=
  Nat.mod_lt _ (Nat.two_pow_pos _)

/-- A float word with the largest exponent field is an Infinity or a NaN (R122). -/
theorem classOf_nonFinite {d : Descriptor} (hk : d.kind = .float) {raw : Nat}
    (h0 : expField d raw ≠ 0) (h1 : expField d raw = d.emax) :
    Reference.NonFinite (classOf d raw) := by
  simp only [Reference.NonFinite, classOf, hk, floatClass, if_neg h0, if_pos h1]
  split_ifs <;> decide

/-! ### What the decomposer answers -/

theorem decompose_fixed {d : Descriptor} (hk : d.kind = .fixed) (raw : Nat) :
    decompose d raw = ⟨decide (fixedInt d raw < 0), (fixedInt d raw).natAbs, -(d.fracBits : Int),
      fixedClass d raw⟩ := by
  simp [decompose, hk, decomposeFixed]

/-- A word whose exponent field is 0 has no hidden bit and the power of the smallest normal (R125). -/
theorem decompose_of_expField_zero {d : Descriptor} (hk : d.kind = .float) {raw : Nat}
    (h0 : expField d raw = 0) :
    decompose d raw = ⟨signField d raw, mantField d raw, 1 - (d.bias : Int) - d.mantBits,
      floatClass d raw⟩ := by
  by_cases hm : mantField d raw = 0 <;> simp [decompose, hk, decomposeFloat, floatClass, h0, hm]

/-- A word of any exponent field between has the hidden bit (R125). -/
theorem decompose_normal {d : Descriptor} (hk : d.kind = .float) {raw : Nat}
    (h0 : expField d raw ≠ 0) (h1 : expField d raw ≠ d.emax) :
    decompose d raw = ⟨signField d raw, mantField d raw + 2 ^ d.mantBits,
      (expField d raw : Int) - d.bias - d.mantBits, .normal⟩ := by
  simp [decompose, hk, decomposeFloat, floatClass, h0, h1]

/-- An Infinity or NaN has magnitude and power 0 (R125). -/
theorem decompose_nonFinite {d : Descriptor} (hk : d.kind = .float) {raw : Nat}
    (h0 : expField d raw ≠ 0) (h1 : expField d raw = d.emax) :
    decompose d raw = ⟨signField d raw, 0, 0, floatClass d raw⟩ := by
  have hpos : d.emax ≠ 0 := h1 ▸ h0
  by_cases hm : mantField d raw = 0 <;> simp [decompose, hk, decomposeFloat, floatClass, h1, hm, hpos]

/-! ### The decomposition fits its registers (R25, R26) -/

/-- The magnitude of a two's complement number of w bits fits w bits. -/
theorem natAbs_signedOf_lt {w raw : Nat} (h : raw < 2 ^ w) : (signedOf w raw).natAbs < 2 ^ w := by
  have hpos := Nat.two_pow_pos (w - 1)
  have hcast : ((2 ^ w : Nat) : Int) = 2 ^ w := by norm_cast
  unfold signedOf
  split_ifs <;> omega

theorem natAbs_fixedInt_lt {d : Descriptor} {raw : Nat} (h : raw < 2 ^ d.bits) :
    (fixedInt d raw).natAbs < 2 ^ d.bits := by
  unfold fixedInt
  split_ifs
  · exact natAbs_signedOf_lt h
  · exact h

theorem two_pow_bits_le (d : Descriptor) : 2 ^ d.bits ≤ 2 ^ 128 :=
  Nat.pow_le_pow_right (by omega) (bits_le d)

/-- Half the exponent range is below 2^126: the mantissa takes at least one bit (R70). -/
theorem two_pow_expBits_le {d : Descriptor} (hk : d.kind = .float) (hv : d.valid = true) :
    2 ^ d.expBits = 2 * 2 ^ (d.expBits - 1) ∧ 2 ^ (d.expBits - 1) ≤ 2 ^ 126 := by
  obtain ⟨hlen, hm, he⟩ := float_layout hk hv
  have hW := bits_le d
  refine ⟨?_, Nat.pow_le_pow_right (by omega) (by omega)⟩
  rw [← Nat.pow_succ', Nat.succ_eq_add_one, Nat.sub_add_cancel he]

theorem decompose_mag_lt {d : Descriptor} (hv : d.valid = true) {raw : Nat} (h : raw < 2 ^ d.bits) :
    (decompose d raw).mag < 2 ^ 128 := by
  refine Nat.lt_of_lt_of_le ?_ (two_pow_bits_le d)
  cases hk : d.kind with
  | fixed =>
    rw [decompose_fixed hk]
    exact natAbs_fixedInt_lt h
  | float =>
    obtain ⟨hlen, -, he⟩ := float_layout hk hv
    have hmant := mantField_lt d raw
    have htwice : 2 * 2 ^ d.mantBits ≤ 2 ^ d.bits := by
      rw [← Nat.pow_succ']
      exact Nat.pow_le_pow_right (by omega) (by omega)
    by_cases h0 : expField d raw = 0
    · rw [decompose_of_expField_zero hk h0]
      dsimp only
      omega
    by_cases h1 : expField d raw = d.emax
    · rw [decompose_nonFinite hk h0 h1]
      exact Nat.two_pow_pos _
    · rw [decompose_normal hk h0 h1]
      dsimp only
      omega

theorem decompose_exp_bounds {d : Descriptor} (hv : d.valid = true) (raw : Nat) :
    -(2 ^ 127) < (decompose d raw).exp ∧ (decompose d raw).exp < 2 ^ 127 := by
  have hW := bits_le d
  cases hk : d.kind with
  | fixed =>
    have hf := fracBits_le hk hv
    rw [decompose_fixed hk]
    dsimp only
    omega
  | float =>
    obtain ⟨hlen, -, -⟩ := float_layout hk hv
    obtain ⟨htwice, hhalf⟩ := two_pow_expBits_le hk hv
    have hexp := expField_lt d raw
    have hbias : d.bias = 2 ^ (d.expBits - 1) - 1 := rfl
    by_cases h0 : expField d raw = 0
    · rw [decompose_of_expField_zero hk h0]
      dsimp only
      omega
    by_cases h1 : expField d raw = d.emax
    · rw [decompose_nonFinite hk h0 h1]
      dsimp only
      omega
    · rw [decompose_normal hk h0 h1]
      dsimp only
      omega

/-- What DECOMP of a valid descriptor leaves in DS, DM and DE: the decomposition of the storage view, which
fits (R126). -/
theorem exec_decomp_registers {src : Descriptor} (hv : src.valid = true) (s : State) :
    ∃ t, exec (.decomp src) s = .next t ∧
      (t.ds == 1#1) = (decompose src (rawView src s.a)).neg ∧
      t.dm.toNat = (decompose src (rawView src s.a)).mag ∧
      t.de.toInt = (decompose src (rawView src s.a)).exp := by
  have hmag := decompose_mag_lt hv (rawView_lt src s.a)
  obtain ⟨hlow, hhigh⟩ := decompose_exp_bounds hv (rawView src s.a)
  refine ⟨_, execDecomp_valid hv s, ?_, ?_, ?_⟩
  · rw [complete_ds, writeDecomposition_ds]
    cases (decompose src (rawView src s.a)).neg <;> rfl
  · rw [complete_dm, writeDecomposition_dm, BitVec.toNat_ofNat, Nat.mod_eq_of_lt (by omega)]
  · rw [complete_de, writeDecomposition_de,
      BitVec.toInt_ofInt_eq_self (by decide) (by omega) (by omega)]

/-- Settles O31: the registers hold the decomposition, and the decomposition is in the bounds. -/
theorem decompositionFitsItsRegisters : Obligations.DecompositionFitsItsRegisters := by
  intro src s hv
  obtain ⟨t, ht, -, hdm, hde⟩ := exec_decomp_registers hv s
  exact ⟨t, ht, hdm ▸ decompose_mag_lt hv (rawView_lt src s.a), hde ▸ decompose_exp_bounds hv _⟩

/-! ### The decomposition denotes the word's number (R27, R123) -/

/-- A sign and a magnitude denote the integer they come from. -/
theorem sign_mul_natAbs (i : Int) : (if decide (i < 0) = true then (-1 : ℚ) else 1) * i.natAbs = i := by
  by_cases h : i < 0
  · have habs : (i.natAbs : Int) = -i := by omega
    rw [if_pos (decide_eq_true h), ← Int.cast_natCast, habs]
    push_cast
    ring
  · have habs : (i.natAbs : Int) = i := by omega
    rw [if_neg (by simpa using h), ← Int.cast_natCast, habs, one_mul]

/-- The decomposition of a finite word denotes its value (R120, R123 to R125). -/
theorem exactValue_decompose {d : Descriptor} (hv : d.valid = true) {x : Word128}
    (hfin : ¬ Reference.NonFinite (Reference.wordClass d x)) :
    Reference.exactValue (decompose d (rawView d x)).neg (decompose d (rawView d x)).mag
      (decompose d (rawView d x)).exp = Reference.wordValue d x := by
  cases hk : d.kind with
  | fixed =>
    simp only [decompose_fixed hk, Reference.exactValue, sign_mul_natAbs, fixedInt_rawView,
      Reference.wordValue, hk]
  | float =>
    have hexp := expField_rawView hk hv x
    have hmant := mantField_rawView hk hv x
    have hsign := signField_rawView d x
    by_cases h0 : expField d (rawView d x) = 0
    · simp only [decompose_of_expField_zero hk h0, Reference.exactValue, Reference.wordValue, hk, hmant,
        hsign, hexp ▸ h0, if_true, mul_assoc]
    · have h1 : expField d (rawView d x) ≠ d.emax := by
        rw [← classOf_rawView hv] at hfin
        exact fun h1 => hfin (classOf_nonFinite hk h0 h1)
      simp only [decompose_normal hk h0 h1, Reference.exactValue, Reference.wordValue, hk, hmant,
        hsign, hexp, if_neg (hexp ▸ h0), mul_assoc]
      push_cast
      ring

/-- Settles O30: the registers hold the decomposition of the word, which denotes its value. -/
theorem decompositionIsExact : Obligations.DecompositionIsExact := by
  intro src s hv hfin
  obtain ⟨t, ht, hds, hdm, hde⟩ := exec_decomp_registers hv s
  refine ⟨t, ht, ?_⟩
  rw [hds, hdm, hde]
  exact exactValue_decompose hv hfin

end Sys2Proof.Machine
end

section
/-! SUPPORT. The words the recomposer makes fit the width of their format (spec/10_state.md R23,
spec/42_recompose.md R140 to R146). -/

namespace Sys2Proof.Machine

/-! ### Fixed-point words -/

theorem saturate_lt (d : Descriptor) (neg : Bool) (q : Nat) : saturate d neg q < 2 ^ d.bits := by
  have hpos : (0 : Int) < 2 ^ d.bits := by positivity
  unfold saturate
  dsimp only
  rw [Int.toNat_lt (Int.emod_nonneg _ hpos.ne'), Nat.cast_pow, Nat.cast_two]
  exact Int.emod_lt_of_pos _ hpos

theorem fixTarget_lt (d : Descriptor) (neg : Bool) (M : Nat) (E : Int) :
    fixTarget d neg M E < 2 ^ d.bits := by
  by_cases hM : M = 0
  · rw [fixTarget, if_pos hM]
    exact Nat.two_pow_pos _
  · rw [fixTarget, if_neg hM]
    exact saturate_lt d neg _

/-! ### Float words -/

/-- A rounded right shift by k of a magnitude of at most n + k bits is at most 2^n (R160). -/
theorem rne_le_two_pow {M n k : Nat} (h : M < 2 ^ (n + k)) : rne M k ≤ 2 ^ n := by
  have hquot : M / 2 ^ k < 2 ^ n := by
    rwa [Nat.div_lt_iff_lt_mul (Nat.two_pow_pos k), ← Nat.pow_add]
  unfold rne rneRule
  split_ifs with _ hk
  · exact Nat.zero_le _
  · subst hk
    exact h.le
  · dsimp only
    split_ifs <;> omega

/-- A magnitude shifted left to at most n bits is at most 2^n (R142). -/
theorem mul_two_pow_le {M n k : Nat} (h : bitlen M + k ≤ n) : M * 2 ^ k ≤ 2 ^ n :=
  calc M * 2 ^ k ≤ 2 ^ bitlen M * 2 ^ k := Nat.mul_le_mul_right _ (lt_two_pow_bitlen M).le
    _ = 2 ^ (bitlen M + k) := (Nat.pow_add ..).symm
    _ ≤ 2 ^ n := Nat.pow_le_pow_right (by omega) h

/-- A magnitude rounded away from a length of at most n + k bits is at most 2^n (R142, R160). -/
theorem rne_le_of_bitlen {M n k : Nat} (h : bitlen M ≤ n + k) : rne M k ≤ 2 ^ n :=
  rne_le_two_pow ((lt_two_pow_bitlen M).trans_le (Nat.pow_le_pow_right (by omega) h))

section
variable {d : Descriptor} (hk : d.kind = .float) (hv : d.valid = true)
include hk hv

/-- Fields in their ranges make a word of W bits (R143). -/
theorem pack_lt (neg : Bool) {b t : Nat} (hb : b ≤ d.emax) (ht : t < 2 ^ d.mantBits) :
    pack d neg b t < 2 ^ d.bits := by
  obtain ⟨hlen, -, -⟩ := float_layout hk hv
  have hfields : b * 2 ^ d.mantBits + t < 2 ^ (d.expBits + d.mantBits) := by
    have hrow : (b + 1) * 2 ^ d.mantBits ≤ 2 ^ d.expBits * 2 ^ d.mantBits := by
      have := Nat.two_pow_pos d.expBits
      exact Nat.mul_le_mul_right _ (by unfold Descriptor.emax at hb; omega)
    rw [Nat.pow_add]
    rw [Nat.add_mul] at hrow
    omega
  unfold pack
  cases hs : d.signed with
  | false =>
    have hbits : d.bits = d.expBits + d.mantBits := by simp [Descriptor.signBits, hs] at hlen; omega
    simpa [hbits] using hfields
  | true =>
    have hbits : d.bits = d.expBits + d.mantBits + 1 := by simp [Descriptor.signBits, hs] at hlen; omega
    rw [hbits, Nat.pow_succ, Nat.add_sub_cancel]
    split_ifs <;> omega

theorem infinityWord_lt (neg : Bool) : infinityWord d neg < 2 ^ d.bits :=
  pack_lt hk hv neg le_rfl (Nat.two_pow_pos _)

theorem nanWord_lt : nanWord d < 2 ^ d.bits := by
  obtain ⟨-, hm, -⟩ := float_layout hk hv
  exact pack_lt hk hv false le_rfl (Nat.pow_lt_pow_right (by omega) (by omega))

theorem floatNormal_lt (neg : Bool) (M : Nat) {b : Int} (hb : b < d.emax) :
    floatNormal d neg M b < 2 ^ d.bits := by
  have hpos := Nat.two_pow_pos d.mantBits
  unfold floatNormal
  dsimp only
  generalize hq : (if d.mantBits + 1 < bitlen M then _ else _ : Nat) = q
  have hle : q ≤ 2 ^ (d.mantBits + 1) := by
    rw [← hq]
    split_ifs
    · exact rne_le_of_bitlen (by omega)
    · exact mul_two_pow_le (by omega)
  split_ifs with hcarry hinf
  · exact infinityWord_lt hk hv neg
  · exact pack_lt hk hv neg (by omega) hpos
  · exact pack_lt hk hv neg (by omega) (by omega)

theorem floatSubnormal_lt (neg : Bool) {M : Nat} {E : Int} (hb : E + bitlen M - 1 + d.bias < 1) :
    floatSubnormal d neg M E < 2 ^ d.bits := by
  unfold floatSubnormal
  dsimp only
  generalize hq : (if 0 ≤ 1 - (d.bias : Int) - d.mantBits - E then _ else _ : Nat) = q
  have hle : q ≤ 2 ^ d.mantBits := by
    rw [← hq]
    split_ifs
    · exact rne_le_of_bitlen (by omega)
    · exact mul_two_pow_le (by omega)
  split_ifs with hpromote
  · exact pack_lt hk hv neg (emax_pos hk hv) (Nat.two_pow_pos _)
  · exact pack_lt hk hv neg (Nat.zero_le _) (by omega)

theorem floatTarget_lt (neg : Bool) (M : Nat) (E : Int) : floatTarget d neg M E < 2 ^ d.bits := by
  have hpos := Nat.two_pow_pos d.mantBits
  unfold floatTarget
  dsimp only
  split_ifs with _ _ hinf hnormal
  · exact Nat.two_pow_pos _
  · exact pack_lt hk hv neg (Nat.zero_le _) hpos
  · exact infinityWord_lt hk hv neg
  · exact floatNormal_lt hk hv neg M (by omega)
  · exact floatSubnormal_lt hk hv neg (by omega)

end

/-! ### The results of RECOMP and CVT -/

section
variable {d : Descriptor} (hv : d.valid = true)
include hv

/-- Recompose answers a word of the destination's width (R140). -/
theorem recompose_lt (neg : Bool) (M : Nat) (E : Int) : recompose d neg M E < 2 ^ d.bits := by
  unfold recompose
  split
  · exact fixTarget_lt d neg M E
  · next hk => exact floatTarget_lt hk hv neg M E

/-- So does the table of Infinities and NaNs (R146). -/
theorem special_lt {neg : Bool} {cls : NumClass} {raw : Nat} (h : special d neg cls = some raw) :
    raw < 2 ^ d.bits := by
  unfold special at h
  split at h
  · cases h
  · next hk =>
    split_ifs at h <;> injection h with h <;> subst h
    · exact nanWord_lt hk hv
    · exact Nat.two_pow_pos _
    · exact infinityWord_lt hk hv neg

/-- CVT's raw result is a word of the destination's width (R145). -/
theorem convert_lt {x : Decomposition} {raw : Nat} (h : convert d x = some raw) : raw < 2 ^ d.bits := by
  unfold convert at h
  split_ifs at h
  · exact special_lt hv h
  · injection h with h
    exact h ▸ recompose_lt hv x.neg x.mag x.exp

end

/-- R takes a result of W bits as it is (R144, R148). -/
theorem toNat_finishFormat_r_lt {d : Descriptor} {raw : Nat} (h : raw < 2 ^ d.bits) (s : State)
    (c : NumClass) : (finishFormat s c d raw).r.toNat < 2 ^ d.bits := by
  rw [finishFormat_r, BitVec.toNat_ofNat]
  exact (Nat.mod_le _ _).trans_lt h

/-- Settles O39: what RECOMP and an errorless CVT write to R is below 2^W, and a CVT that writes nothing
reports its error. -/
theorem formatResultsFitTheirWidth : Obligations.FormatResultsFitTheirWidth := by
  intro src dst s hv
  refine ⟨⟨_, execRecomp_valid hv s, toNat_finishFormat_r_lt (recompose_lt hv _ _ _) s _⟩, ?_⟩
  obtain ⟨-, h⟩ | ⟨-, -, -, h⟩ | ⟨raw, -, -, hc, h⟩ := execCvt_cases src dst s
  · exact ⟨_, h, fun herr => by simp [ErrCode.code] at herr⟩
  · exact ⟨_, h, fun herr => by simp [ErrCode.code] at herr⟩
  · exact ⟨_, h, fun _ => toNat_finishFormat_r_lt (convert_lt hv hc) s _⟩

end Sys2Proof.Machine
end

section
/-! SUPPORT. The register window offset by offset, and the statements about the bus: what a served access
answers and stores, which access faults, and the commands that can be written again (spec/20_memory.md R40
to R48). -/

namespace Sys2Proof.Machine

/-! ### Byte addresses (R40) -/

theorem windowOffset_eq_some_iff (base addr : Nat) (off : BitVec 8) :
    windowOffset base addr = some off ↔ addr = base + off.toNat := by
  have hlt := off.isLt
  unfold windowOffset Config.windowBytes
  split_ifs with hin
  · rw [Option.some_inj, ← BitVec.toNat_inj, BitVec.toNat_ofNat, Nat.mod_eq_of_lt (by omega)]
    omega
  · simp only [false_iff]
    omega

theorem windowOffset_eq_none_iff (base addr : Nat) :
    windowOffset base addr = none ↔ addr < base ∨ base + 256 ≤ addr := by
  unfold windowOffset Config.windowBytes
  split_ifs with hin
  · simp only [false_iff]
    omega
  · simp only [true_iff]
    omega

/-- Settles O16: the offset is the distance from the base, which 8 bits hold inside the window. -/
theorem windowIs256BytesFromTheBase : Obligations.WindowIs256BytesFromTheBase :=
  fun base addr => ⟨windowOffset_eq_some_iff base addr, windowOffset_eq_none_iff base addr⟩

/-! ### The register map (R41) -/

@[simp] theorem toNat_offset_a (n : Fin 4) : (RegWord.a n).offset.toNat = 0x10 + 4 * n :=
  Nat.mod_eq_of_lt (by omega)

@[simp] theorem toNat_offset_b (n : Fin 4) : (RegWord.b n).offset.toNat = 0x20 + 4 * n :=
  Nat.mod_eq_of_lt (by omega)

@[simp] theorem toNat_offset_rs (n : Fin 4) : (RegWord.rs n).offset.toNat = 0x30 + 4 * n :=
  Nat.mod_eq_of_lt (by omega)

@[simp] theorem toNat_offset_dm (n : Fin 8) : (RegWord.dm n).offset.toNat = 0x50 + 4 * n :=
  Nat.mod_eq_of_lt (by omega)

@[simp] theorem toNat_offset_de (n : Fin 8) : (RegWord.de n).offset.toNat = 0x70 + 4 * n :=
  Nat.mod_eq_of_lt (by omega)

/-- The aligned offsets the register map leaves reserved (R41). -/
abbrev ReservedOffset (off : BitVec 8) : Prop :=
  off.toNat = 0x0C ∨ (0x44 ≤ off.toNat ∧ off.toNat ≤ 0x4C) ∨ 0x90 ≤ off.toNat

/-- A reserved offset selects no register's word (R41). -/
theorem wordAt_reserved {off : BitVec 8} (h : ReservedOffset off) : wordAt off = none := by
  obtain h | h | h := h <;> simp (disch := omega) only [wordAt, if_pos, if_neg]

/-- Every other aligned offset is that of a register's word (R41). -/
theorem exists_offset_or_reserved {off : BitVec 8} (halign : off.toNat % 4 = 0) :
    (∃ x : RegWord, off = x.offset) ∨ ReservedOffset off := by
  obtain hid | hstatus | hkeeps | hr | hds | hreserved : off.toNat = 0x00 ∨ off.toNat = 0x04 ∨
      (off.toNat = 0x08 ∨ (0x10 ≤ off.toNat ∧ off.toNat ≤ 0x2C) ∨
        (0x50 ≤ off.toNat ∧ off.toNat ≤ 0x8C)) ∨
      (0x30 ≤ off.toNat ∧ off.toNat < 0x40) ∨ off.toNat = 0x40 ∨ ReservedOffset off := by omega
  · exact .inl ⟨.id, BitVec.eq_of_toNat_eq hid⟩
  · exact .inl ⟨.status, BitVec.eq_of_toNat_eq hstatus⟩
  · obtain ⟨x, hx, -⟩ := exists_offset_keepsWrite halign hkeeps
    exact .inl ⟨x, hx⟩
  · exact .inl ⟨.rs ⟨(off.toNat - 0x30) / 4, by omega⟩, eq_ofNat_base_add_word halign rfl hr.1⟩
  · exact .inl ⟨.ds, BitVec.eq_of_toNat_eq hds⟩
  · exact .inr hreserved

/-! ### What a served read answers -/

theorem toNat_getWord {w : Nat} (x : BitVec w) (n : Nat) :
    (getWord x n).toNat = x.toNat / 2 ^ (32 * n) % 2 ^ 32 := by
  rw [getWord, BitVec.extractLsb'_toNat, Nat.shiftRight_eq_div_pow]

/-- The register map's value at a register's word is what that word reads as (R41). -/
theorem windowValue_offset (s : State) (x : RegWord) :
    Reference.windowValue s x.offset.toNat = (readWord s x).toNat := by
  cases x with
  | id | status | cmd => rfl
  | ds => exact (BitVec.toNat_setWidth_of_le (by decide)).symm
  | a n | b n | rs n | dm n | de n =>
    simp (disch := omega) only [Reference.windowValue, if_pos, if_neg, toNat_offset_a, toNat_offset_b,
      toNat_offset_rs, toNat_offset_dm, toNat_offset_de, readWord, toNat_getWord,
      Nat.add_sub_cancel_left, Nat.mul_div_cancel_left]

/-- Reserved words read 0 (R41). -/
theorem windowValue_reserved {off : BitVec 8} (h : ReservedOffset off) (s : State) :
    Reference.windowValue s off.toNat = 0 := by
  obtain h | h | h := h <;> simp (disch := omega) only [Reference.windowValue, if_neg]

/-- An aligned offset reads as the register map lists it (R41). -/
theorem toNat_readWindow {off : BitVec 8} (halign : off.toNat % 4 = 0) (s : State) :
    (readWindow s off).toNat = Reference.windowValue s off.toNat := by
  obtain ⟨x, rfl⟩ | h := exists_offset_or_reserved halign
  · rw [windowValue_offset, readWindow, wordAt_offset]
  · rw [windowValue_reserved h, readWindow, wordAt_reserved h]
    rfl

/-- Settles O13: the reply is the word at the offset, and `reply` touches nothing else. -/
theorem readsReturnTheRegisterMap : Obligations.ReadsReturnTheRegisterMap := by
  intro s off rest hp halign
  have hserv : servable off 32 = true := (servable_iff _ _).mpr ⟨rfl, halign⟩
  have hmap : BitVec.ofNat 32 (Reference.windowValue s off.toNat) = readWindow s off := by
    rw [← toNat_readWindow halign, BitVec.ofNat_toNat, BitVec.setWidth_eq]
  rw [hmap, step_event hp, handle, serve_read hserv]
  rfl

/-! ### What a served write stores -/

/-- The step of a served write is the write to the window. -/
theorem step_write {s : State} {off : BitVec 8} {v : Word} {rest : List Event}
    (hp : s.pending = .access (.write off 32 v) :: rest) (halign : off.toNat % 4 = 0) :
    step s = writeWindow (s.withPending rest) off v := by
  rw [step_event hp, handle, serve_write ((servable_iff _ _).mpr ⟨rfl, halign⟩)]

theorem writeWindow_reserved {off : BitVec 8} (h : ReservedOffset off) (s : State) (v : Word) :
    writeWindow s off v = .next s := by
  rw [writeWindow, wordAt_reserved h]

/-- A write to any register's word but CMD stores and runs nothing (R46, R47). -/
theorem writeWindow_offset {x : RegWord} (hx : x ≠ .cmd) (s : State) (v : Word) :
    writeWindow s x.offset v = .next (storeWord s x v) := by
  obtain ⟨hnone, -⟩ | ⟨hcmd, -⟩ | ⟨y, hy, -, hw⟩ := writeWindow_cases s x.offset v
  · simp at hnone
  · exact absurd (by simpa using hcmd) hx
  · obtain rfl : x = y := by simpa using hy
    exact hw

/-- ID, STATUS, R and the reserved words ignore a write (R41, R46). -/
theorem writeWindow_ignored {off : BitVec 8} (halign : off.toNat % 4 = 0)
    (h : off.toNat ≤ 0x04 ∨ (0x30 ≤ off.toNat ∧ off.toNat ≤ 0x3C) ∨ ReservedOffset off)
    (s : State) (v : Word) : writeWindow s off v = .next s := by
  obtain hlow | hr | hreserved := h
  · obtain hid | hstatus : off.toNat = 0x00 ∨ off.toNat = 0x04 := by omega
    · obtain rfl : off = RegWord.id.offset := BitVec.eq_of_toNat_eq hid
      exact writeWindow_offset (by decide) s v
    · obtain rfl : off = RegWord.status.offset := BitVec.eq_of_toNat_eq hstatus
      exact writeWindow_offset (by decide) s v
  · have hoff : off = (RegWord.rs ⟨(off.toNat - 0x30) / 4, by omega⟩).offset :=
      eq_ofNat_base_add_word halign rfl hr.1
    rw [hoff]
    exact writeWindow_offset (by simp) s v
  · exact writeWindow_reserved hreserved s v

/-- `setWord` stores a word as R46 says. -/
theorem wordStored_setWord {w : Nat} (x : BitVec w) (n : Nat) (v : Word) :
    Reference.WordStored x (setWord x n v) n v := by
  intro k hk
  rw [getLsbD_setWord, decide_eq_true hk, Bool.true_and]

/-- Bit 0 of a word, as a register of one bit (R46). -/
theorem extractLsb'_zero_one (v : Word) : v.extractLsb' 0 1 = BitVec.ofBool (v.getLsbD 0) := by
  refine BitVec.eq_of_getLsbD_eq fun k hk => ?_
  obtain rfl : k = 0 := by omega
  simp

/-- Settles O14: each range of offsets is that of one register's words, and `storeWord` replaces the word
the offset selects. -/
theorem writesStoreTheirWordOnly : Obligations.WritesStoreTheirWordOnly := by
  intro s off v rest hp halign
  have hstep := step_write hp halign
  have hstore {x : RegWord} (hoff : off = x.offset) (hx : x ≠ .cmd) :
      step s = .next (storeWord (s.withPending rest) x v) := by
    rw [hstep, hoff, writeWindow_offset hx]
  refine ⟨fun h => ?_, fun h => ?_, fun h => ?_, fun h => ?_, fun h => ?_, fun h => ?_⟩
  · rw [hstep, writeWindow_ignored halign (by omega)]
    rfl
  · exact ⟨_, wordStored_setWord _ _ _, hstore (x := .a ⟨(off.toNat - 0x10) / 4, by omega⟩)
      (eq_ofNat_base_add_word halign rfl h.1) (by simp)⟩
  · exact ⟨_, wordStored_setWord _ _ _, hstore (x := .b ⟨(off.toNat - 0x20) / 4, by omega⟩)
      (eq_ofNat_base_add_word halign rfl h.1) (by simp)⟩
  · rw [hstore (x := .ds) (BitVec.eq_of_toNat_eq h) (by decide), ← extractLsb'_zero_one]
    rfl
  · exact ⟨_, wordStored_setWord _ _ _, hstore (x := .dm ⟨(off.toNat - 0x50) / 4, by omega⟩)
      (eq_ofNat_base_add_word halign rfl h.1) (by simp)⟩
  · exact ⟨_, wordStored_setWord _ _ _, hstore (x := .de ⟨(off.toNat - 0x70) / 4, by omega⟩)
      (eq_ofNat_base_add_word halign rfl h.1) (by simp)⟩

/-! ### Which event faults (R42) -/

/-- A served write completes and leaves what waits on the bus (R47, R48). -/
theorem writeWindow_completes (s : State) (off : BitVec 8) (v : Word) :
    ∃ t, writeWindow s off v = .next t ∧ t.pending = s.pending := by
  obtain ⟨-, hw⟩ | ⟨-, hw⟩ | ⟨x, -, -, hw⟩ := writeWindow_cases s off v
  · exact ⟨s, hw, rfl⟩
  · obtain ⟨t, ht, -, hpending, -⟩ := executeWord_completes (s.withCmd v) v
    exact ⟨t, hw.trans ht, hpending⟩
  · exact ⟨_, hw, storeWord_pending s x v⟩

@[simp] theorem applyReset_pending (s : State) (cut : Option Access) :
    (applyReset s cut).pending = s.pending := by
  match cut with
  | none | some (.read _ _) | some (.write _ _ _) => rfl

/-- An event WNE can serve completes and leaves what waits behind it (R42, R48). -/
theorem handle_servable {e : Event} (he : e.servable = true) (s : State) :
    ∃ t, handle s e = .next t ∧ t.pending = s.pending := by
  cases e with
  | access a =>
    cases a with
    | read off width => exact ⟨_, serve_read he s, rfl⟩
    | write off width v =>
      obtain ⟨t, ht, hpending⟩ := writeWindow_completes s off v
      exact ⟨t, (serve_write he s v).trans ht, hpending⟩
  | reset cut => exact ⟨_, rfl, applyReset_pending s cut⟩
  | otherMaster => exact ⟨_, rfl, rfl⟩

/-- An event WNE cannot serve is an access of another width or place, answered with its BusError (R42). -/
theorem handle_not_servable {e : Event} (he : e.servable = false) (s : State) :
    ∃ off width, (e = .access (.read off width) ∨ ∃ v, e = .access (.write off width v)) ∧
      servable off width = false ∧ handle s e = .fault (.busError off width) := by
  cases e with
  | access a =>
    cases a with
    | read off width => exact ⟨off, width, .inl rfl, he, serve_read_fault he s⟩
    | write off width v => exact ⟨off, width, .inr ⟨v, rfl⟩, he, serve_write_fault he s v⟩
  | reset cut => cases he
  | otherMaster => cases he

theorem servable_eq_false_iff (off : BitVec 8) (width : Nat) :
    servable off width = false ↔ width ≠ 32 ∨ off.toNat % 4 ≠ 0 := by
  rw [← Bool.not_eq_true, servable_iff, not_and_or]

/-- Settles O11: the step handles the oldest event, which completes when it can be served and faults when it
cannot. -/
theorem busErrorExactlyWhenNotServed : Obligations.BusErrorExactlyWhenNotServed := by
  intro s f
  constructor
  · intro h
    cases hp : s.pending with
    | nil => simp [step_idle hp] at h
    | cons e rest =>
      rw [step_event hp] at h
      cases he : e.servable with
      | true =>
        obtain ⟨t, ht, -⟩ := handle_servable he (s.withPending rest)
        simp [ht] at h
      | false =>
        obtain ⟨off, width, hacc, hns, hfault⟩ := handle_not_servable he (s.withPending rest)
        obtain rfl : f = .busError off width := by simpa [hfault, eq_comm] using h
        exact ⟨off, width, rest, by simpa using hacc, (servable_eq_false_iff off width).mp hns, rfl⟩
  · rintro ⟨off, width, rest, hp | ⟨v, hp⟩, hns, rfl⟩
    · exact (step_event hp).trans (serve_read_fault ((servable_eq_false_iff off width).mpr hns) _)
    · exact (step_event hp).trans (serve_write_fault ((servable_eq_false_iff off width).mpr hns) _ v)

/-- Settles O58: the oldest event can be served, and the events behind it stay. -/
theorem servedAccessesNeverFault : Obligations.ServedAccessesNeverFault := by
  intro s hs
  cases hp : s.pending with
  | nil => exact ⟨s, step_idle hp, hs⟩
  | cons e rest =>
    obtain ⟨he, hrest⟩ : e.servable = true ∧ ∀ e' ∈ rest, e'.servable = true := by
      simpa [BusSafe, hp] using hs
    obtain ⟨t, ht, hpending⟩ := handle_servable he (s.withPending rest)
    exact ⟨t, (step_event hp).trans ht, by simpa [BusSafe, hpending] using hrest⟩

/-! ### Commands that can be written again (R47) -/

/-- Settles O55: no command but RNDSH writes a register it reads, so the second run finds the operands of the
first and writes the same values over its results. -/
theorem commandsButRndshAreIdempotent : Obligations.CommandsButRndshAreIdempotent := by
  intro i s t hi h
  suffices hex : ∃ u, exec i s = .next u ∧ exec i u = .next u by
    obtain ⟨u, hu, hagain⟩ := hex
    obtain rfl : t = u := by simpa [h] using hu
    exact hagain
  cases i with
  | nop | iadd | isub | ineg | imul => exact ⟨_, rfl, rfl⟩
  | decomp src =>
    cases hv : src.valid with
    | false => exact ⟨_, execDecomp_invalid hv s, execDecomp_invalid hv _⟩
    | true => exact ⟨_, execDecomp_valid hv s, execDecomp_valid hv _⟩
  | recomp dst =>
    cases hv : dst.valid with
    | false => exact ⟨_, execRecomp_invalid hv s, execRecomp_invalid hv _⟩
    | true => exact ⟨_, execRecomp_valid hv s, execRecomp_valid hv _⟩
  | cvt src dst =>
    obtain ⟨hv, he⟩ | ⟨hs, hd, hc, he⟩ | ⟨raw, hs, hd, hc, he⟩ := execCvt_cases src dst s
    · exact ⟨_, he, execCvt_invalid hv _⟩
    · exact ⟨_, he, execCvt_representation hs hd _ hc⟩
    · exact ⟨_, he, execCvt_converted hs hd _ hc⟩
  | rndsh k => exact absurd rfl (hi k)

end Sys2Proof.Machine
end

section
/-! SUPPORT. The decoder and the encoder as facts about the fields of a word, and the statements about the
encoding that follow from them (spec/30_encoding.md R60 to R68, R72, R76). -/

namespace Sys2Proof

open Sys2Proof.Machine Sys2Proof.Laws

/-! ### Fields of a word -/

/-- A field is a concatenation exactly when its high and its low part are the two words. -/
theorem extractLsb'_eq_append_iff {n h l : Nat} (w : BitVec n) (a : Nat) (x : BitVec h)
    (y : BitVec l) :
    w.extractLsb' a (h + l) = x ++ y ↔ w.extractLsb' (a + l) h = x ∧ w.extractLsb' a l = y := by
  rw [← BitVec.extractLsb'_append_extractLsb'_eq_extractLsb' rfl]
  constructor
  · intro heq
    have hhigh := congrArg (BitVec.extractLsb' l h) heq
    have hlow := congrArg (BitVec.extractLsb' 0 l) heq
    simp only [BitVec.extractLsb'_append_eq_left] at hhigh
    simp only [BitVec.extractLsb'_append_eq_right] at hlow
    exact ⟨hhigh, hlow⟩
  · rintro ⟨rfl, rfl⟩
    rfl

/-- A word is a concatenation exactly when its high and its low field are the two words. -/
theorem eq_append_iff {h l : Nat} (w : BitVec (h + l)) (x : BitVec h) (y : BitVec l) :
    w = x ++ y ↔ w.extractLsb' l h = x ∧ w.extractLsb' 0 l = y := by
  have hself := extractLsb'_eq_append_iff w 0 x y
  rwa [BitVec.extractLsb'_eq_self, Nat.zero_add] at hself

/-- A word is three fields in a row exactly when its bits at the three places are those fields. -/
theorem eq_append_append_iff {h m l : Nat} (w : BitVec (h + m + l)) (x : BitVec h) (y : BitVec m)
    (z : BitVec l) : w = x ++ y ++ z ↔
      w.extractLsb' (l + m) h = x ∧ w.extractLsb' l m = y ∧ w.extractLsb' 0 l = z := by
  rw [eq_append_iff, extractLsb'_eq_append_iff, and_assoc]

/-- A field as a number. -/
theorem toNat_extractLsb' {n : Nat} (w : BitVec n) (a l : Nat) :
    (w.extractLsb' a l).toNat = w.toNat / 2 ^ a % 2 ^ l := by
  rw [BitVec.extractLsb'_toNat, Nat.shiftRight_eq_div_pow]

/-- A field that reaches the top of the word is 0 exactly when the number has no part above it. -/
theorem extractLsb'_top_eq_zero_iff {n : Nat} (w : BitVec n) {a l : Nat} (h : a + l = n) :
    w.extractLsb' a l = 0#l ↔ w.toNat / 2 ^ a = 0 := by
  have hlt : w.toNat / 2 ^ a < 2 ^ l :=
    Nat.div_lt_of_lt_mul (by rw [← Nat.pow_add, h]; exact w.isLt)
  rw [← BitVec.toNat_inj, toNat_extractLsb', Nat.mod_eq_of_lt hlt, BitVec.toNat_zero]

/-- The lowest field is the number modulo its size. -/
theorem extractLsb'_low_eq_iff {n : Nat} (w : BitVec n) {l : Nat} (v : BitVec l) :
    w.extractLsb' 0 l = v ↔ w.toNat % 2 ^ l = v.toNat := by
  rw [← BitVec.toNat_inj, toNat_extractLsb', Nat.pow_zero, Nat.div_one]

/-- A mask that keeps the high and the low field, and drops the one between, tests those two (R65). -/
theorem and_outerMask_eq_iff (h m l : Nat) (w : BitVec (h + m + l)) (v : BitVec l) :
    w &&& (BitVec.allOnes h ++ 0#m ++ BitVec.allOnes l) = 0#h ++ 0#m ++ v ↔
      w.toNat / 2 ^ (l + m) = 0 ∧ w.toNat % 2 ^ l = v.toNat := by
  obtain ⟨hhigh, hmid, hlow⟩ :=
    (eq_append_append_iff (BitVec.allOnes h ++ 0#m ++ BitVec.allOnes l) _ _ _).mp rfl
  rw [eq_append_append_iff, ← extractLsb'_top_eq_zero_iff w (l := h) (by omega), ← extractLsb'_low_eq_iff]
  simp [BitVec.extractLsb'_and, hhigh, hmid, hlow]

/-! ### Descriptor fields (R67, R68) -/

theorem widthOfCode_eq_some_iff (c : BitVec 3) (w : Width) :
    widthOfCode c = some w ↔ c = codeOfWidth w := by
  cases w <;> revert c <;> decide

theorem isSome_widthOfCode (c : BitVec 3) : (widthOfCode c).isSome = decide (c.toNat ≤ 5) := by
  revert c; decide

theorem kindOfBit_eq_iff (k : BitVec 1) (kind : Kind) : kindOfBit k = kind ↔ k = bitOfKind kind := by
  cases kind <;> revert k <;> decide

theorem beq_one_eq_iff (x : BitVec 1) (b : Bool) : (x == 1#1) = b ↔ x = BitVec.ofBool b := by
  cases b <;> revert x <;> decide

theorem toNat_codeOfWidth (w : Width) : (codeOfWidth w).toNat = Reference.widthCode w := by
  cases w <;> rfl

/-- The number a field of `l` bits holds is one that fits it, and the field is that number's (R76). -/
theorem toNat_eq_iff {l : Nat} (x : BitVec l) (n : Nat) :
    x.toNat = n ↔ n < 2 ^ l ∧ x = BitVec.ofNat l n := by
  constructor
  · rintro rfl
    exact ⟨x.isLt, by simp⟩
  · rintro ⟨hn, rfl⟩
    exact Nat.mod_eq_of_lt hn

theorem Descriptor.wellFormed_iff (d : Descriptor) : d.wellFormed = true ↔ d.param < 2 ^ 8 :=
  decide_eq_true_iff

/-- The parts of a descriptor field, at its place in a word (R63, R67). -/
theorem eq_encodeDescriptor_iff {n : Nat} (w : BitVec n) (pos : Nat) (d : Descriptor) :
    w.extractLsb' pos 13 = encodeDescriptor d ↔
      w.extractLsb' (pos + 5) 8 = BitVec.ofNat 8 d.param ∧
      w.extractLsb' (pos + 4) 1 = BitVec.ofBool d.signed ∧
      w.extractLsb' (pos + 1) 3 = codeOfWidth d.width ∧ w.extractLsb' pos 1 = bitOfKind d.kind := by
  change w.extractLsb' pos (8 + 1 + 3 + 1) = _ ++ _ ++ _ ++ _ ↔ _
  rw [extractLsb'_eq_append_iff, extractLsb'_eq_append_iff, extractLsb'_eq_append_iff]
  simp only [and_assoc, Nat.add_assoc, Nat.reduceAdd]

/-- A field decodes to a descriptor exactly when the descriptor is well-formed and encodes to it (R67, R68). -/
theorem decodeDescriptor_eq_some_iff (f : BitVec 13) (d : Descriptor) :
    decodeDescriptor f = some d ↔ d.wellFormed = true ∧ f = encodeDescriptor d := by
  have hself := eq_encodeDescriptor_iff f 0 d
  rw [BitVec.extractLsb'_eq_self] at hself
  obtain ⟨kind, width, signed, param⟩ := d
  have hparts : decodeDescriptor f = some ⟨kind, width, signed, param⟩ ↔
      kindOfBit (f.extractLsb' 0 1) = kind ∧ widthOfCode (f.extractLsb' 1 3) = some width ∧
      (f.extractLsb' 4 1 == 1#1) = signed ∧ (f.extractLsb' 5 8).toNat = param := by
    unfold decodeDescriptor
    cases widthOfCode (f.extractLsb' 1 3) with
    | none => simp
    | some w => simp [and_left_comm]
  rw [hparts, hself, kindOfBit_eq_iff, widthOfCode_eq_some_iff, beq_one_eq_iff, toNat_eq_iff,
    Descriptor.wellFormed_iff]
  tauto

/-- Only the width code can keep a field from being a descriptor (R66 (c), R68). -/
theorem isSome_decodeDescriptor (f : BitVec 13) :
    (decodeDescriptor f).isSome = (widthOfCode (f.extractLsb' 1 3)).isSome := by
  unfold decodeDescriptor
  cases widthOfCode (f.extractLsb' 1 3) <;> rfl

/-- A field of a word is a descriptor exactly when its width code names a width (R66 (c), R68). -/
theorem exists_decodeDescriptor_iff {n : Nat} (w : BitVec n) (pos : Nat) :
    (∃ d, decodeDescriptor (w.extractLsb' pos 13) = some d) ↔ w.toNat / 2 ^ (pos + 1) % 8 ≤ 5 := by
  have hcode : ((w.extractLsb' pos 13).extractLsb' 1 3).toNat = w.toNat / 2 ^ (pos + 1) % 8 := by
    rw [toNat_extractLsb', toNat_extractLsb', pow_succ 2 pos, ← Nat.div_div_eq_div_mul]
    omega
  rw [← Option.isSome_iff_exists, isSome_decodeDescriptor, isSome_widthOfCode, hcode,
    decide_eq_true_iff]

/-- A one-bit field is the bit at its place. -/
theorem extractLsb'_one_eq_ofBool_iff {n : Nat} (w : BitVec n) (pos : Nat) (b : Bool) :
    w.extractLsb' pos 1 = BitVec.ofBool b ↔ w.getLsbD pos = b := by
  have hbit : (w.extractLsb' pos 1).getLsbD 0 = w.getLsbD pos := by simp
  rw [← hbit]
  generalize w.extractLsb' pos 1 = x
  cases b <;> revert x <;> decide

theorem bitOfKind_eq_ofBool (kind : Kind) :
    bitOfKind kind = BitVec.ofBool (decide (kind = .float)) := by
  cases kind <;> rfl

/-- What the fields of a word tell of its descriptor (R63, R67). -/
theorem readsDescriptor_of_decode {w : Word} {pos : Nat} {d : Descriptor}
    (h : decodeDescriptor (w.extractLsb' pos 13) = some d) : Reference.ReadsDescriptor d w pos := by
  obtain ⟨hwf, henc⟩ := (decodeDescriptor_eq_some_iff _ d).mp h
  obtain ⟨hparam, hsigned, hwidth, hkind⟩ := (eq_encodeDescriptor_iff w pos d).mp henc
  rw [extractLsb'_one_eq_ofBool_iff] at hsigned
  rw [bitOfKind_eq_ofBool, extractLsb'_one_eq_ofBool_iff] at hkind
  have hp := (toNat_eq_iff _ _).mpr ⟨d.wellFormed_iff.mp hwf, hparam⟩
  refine ⟨by simp [hkind], ?_, hsigned.symm, ?_⟩
  · rw [← toNat_codeOfWidth, ← hwidth]
    exact toNat_extractLsb' _ _ _
  · rw [← hp]
    exact toNat_extractLsb' _ _ _

/-! ### Command words (R62 to R65, R72) -/

theorem decodeFormatN_eq_instr_iff (w : Word) (i j : Instr) :
    decodeFormatN w i = .instr j ↔ w.extractLsb' 5 27 = 0#27 ∧ j = i := by
  unfold decodeFormatN
  split_ifs with hz <;> simp [hz, eq_comm]

theorem decodeDecomp_eq_instr_iff (w : Word) (i : Instr) :
    decodeDecomp w = .instr i ↔ w.extractLsb' 18 14 = 0#14 ∧
      ∃ src, decodeDescriptor (sfmtField w) = some src ∧ i = .decomp src := by
  unfold decodeDecomp
  split_ifs with hz
  · cases decodeDescriptor (sfmtField w) <;> simp [hz, eq_comm]
  · simp [hz]

theorem decodeRecomp_eq_instr_iff (w : Word) (i : Instr) :
    decodeRecomp w = .instr i ↔ (w.extractLsb' 31 1 = 0#1 ∧ sfmtField w = 0#13) ∧
      ∃ dst, decodeDescriptor (dfmtField w) = some dst ∧ i = .recomp dst := by
  unfold decodeRecomp
  split_ifs with hz
  · cases decodeDescriptor (dfmtField w) <;> simp [hz, eq_comm]
  · simp [hz]

theorem decodeCvt_eq_instr_iff (w : Word) (i : Instr) :
    decodeCvt w = .instr i ↔ w.extractLsb' 31 1 = 0#1 ∧
      ∃ src dst, decodeDescriptor (sfmtField w) = some src ∧
        decodeDescriptor (dfmtField w) = some dst ∧ i = .cvt src dst := by
  unfold decodeCvt
  split_ifs with hz
  · cases decodeDescriptor (sfmtField w) <;> cases decodeDescriptor (dfmtField w) <;>
      simp [hz, eq_comm]
  · simp [hz]

theorem decodeRndsh_eq_instr_iff (w : Word) (i : Instr) :
    decodeRndsh w = .instr i ↔ w.extractLsb' 14 18 = 0#18 ∧ i = .rndsh (shiftField w).toNat := by
  unfold decodeRndsh
  split_ifs with hz <;> simp [hz, eq_comm]

/-- The bits above OP that make a word the command `i`, format by format (R62 to R64). -/
def OperandBits (w : Word) : Instr → Prop
  | .nop | .iadd | .isub | .ineg | .imul => w.extractLsb' 5 27 = 0#27
  | .decomp src => w.extractLsb' 18 14 = 0#14 ∧ decodeDescriptor (sfmtField w) = some src
  | .recomp dst =>
    w.extractLsb' 31 1 = 0#1 ∧ sfmtField w = 0#13 ∧ decodeDescriptor (dfmtField w) = some dst
  | .cvt src dst =>
    w.extractLsb' 31 1 = 0#1 ∧ decodeDescriptor (sfmtField w) = some src ∧
      decodeDescriptor (dfmtField w) = some dst
  | .rndsh k => w.extractLsb' 14 18 = 0#18 ∧ (shiftField w).toNat = k

/-- A word decodes only to a command whose opcode it carries (R61, R72). -/
theorem opField_of_decode {w : Word} {i : Instr} (h : decode w = .instr i) :
    opField w = opcodeOf i := by
  unfold decode at h
  split at h
  case h_1 hop | h_2 hop | h_3 hop | h_4 hop | h_5 hop =>
    obtain ⟨-, rfl⟩ := (decodeFormatN_eq_instr_iff w _ i).mp h
    exact BitVec.eq_of_toNat_eq hop
  case h_6 hop =>
    obtain ⟨-, src, -, rfl⟩ := (decodeDecomp_eq_instr_iff w i).mp h
    exact BitVec.eq_of_toNat_eq hop
  case h_7 hop =>
    obtain ⟨-, dst, -, rfl⟩ := (decodeRecomp_eq_instr_iff w i).mp h
    exact BitVec.eq_of_toNat_eq hop
  case h_8 hop =>
    obtain ⟨-, src, dst, -, -, rfl⟩ := (decodeCvt_eq_instr_iff w i).mp h
    exact BitVec.eq_of_toNat_eq hop
  case h_9 hop =>
    obtain ⟨-, rfl⟩ := (decodeRndsh_eq_instr_iff w i).mp h
    exact BitVec.eq_of_toNat_eq hop
  case h_10 => cases h

/-- A word decodes to a command exactly when it has that command's opcode and operand bits (R65, R72). -/
theorem decode_eq_instr_iff (w : Word) (i : Instr) :
    decode w = .instr i ↔ opField w = opcodeOf i ∧ OperandBits w i := by
  by_cases hop : opField w = opcodeOf i
  · cases i with
    | nop | iadd | isub | ineg | imul =>
      simp [decode, hop, opcodeOf, OperandBits, decodeFormatN_eq_instr_iff]
    | decomp src => simp [decode, hop, opcodeOf, OperandBits, decodeDecomp_eq_instr_iff]
    | recomp dst => simp [decode, hop, opcodeOf, OperandBits, decodeRecomp_eq_instr_iff, and_assoc]
    | cvt src dst => simp [decode, hop, opcodeOf, OperandBits, decodeCvt_eq_instr_iff]
    | rndsh k => simp [decode, hop, opcodeOf, OperandBits, decodeRndsh_eq_instr_iff, eq_comm]
  · exact ⟨fun h => absurd (opField_of_decode h) hop, fun h => absurd h.1 hop⟩

/-- A word is laid out in format X exactly when its fields are the parts, bit 31 being 0 (R63). -/
theorem eq_formatX_iff (w : Word) (dfmt sfmt : BitVec 13) (op : BitVec 5) :
    w = 0#1 ++ dfmt ++ sfmt ++ op ↔
      (w.extractLsb' 31 1 = 0#1 ∧ dfmtField w = dfmt) ∧ sfmtField w = sfmt ∧ opField w = op := by
  have htop : w.extractLsb' 18 14 = 0#1 ++ dfmt ↔ w.extractLsb' 31 1 = 0#1 ∧ dfmtField w = dfmt :=
    extractLsb'_eq_append_iff w 18 0#1 dfmt
  rw [← htop]
  exact eq_append_append_iff (h := 14) (m := 13) (l := 5) w (0#1 ++ dfmt) sfmt op

/-- The same bits make a word the encoding of a well-formed command (R62 to R65, R76). -/
theorem opField_operandBits_iff_encode (w : Word) (i : Instr) :
    opField w = opcodeOf i ∧ OperandBits w i ↔ i.wellFormed = true ∧ w = encode i := by
  cases i with
  | nop | iadd | isub | ineg | imul =>
    have hw := eq_append_iff (h := 27) (l := 5) w
    simp only [hw, opField, OperandBits, opcodeOf, Instr.wellFormed, encode]
    tauto
  | decomp src =>
    have hw : w = encode (.decomp src) ↔ w.extractLsb' 18 14 = 0#14 ∧
        sfmtField w = encodeDescriptor src ∧ opField w = 0x08#5 :=
      eq_append_append_iff (h := 14) (m := 13) (l := 5) w 0#14 (encodeDescriptor src) 0x08#5
    simp only [hw, OperandBits, opcodeOf, Instr.wellFormed, decodeDescriptor_eq_some_iff]
    tauto
  | recomp dst =>
    have hw := eq_formatX_iff w (encodeDescriptor dst) 0#13 0x09#5
    simp only [encode, hw, OperandBits, opcodeOf, Instr.wellFormed, decodeDescriptor_eq_some_iff]
    tauto
  | cvt src dst =>
    have hw := eq_formatX_iff w (encodeDescriptor dst) (encodeDescriptor src) 0x0A#5
    simp only [encode, hw, OperandBits, opcodeOf, Instr.wellFormed, decodeDescriptor_eq_some_iff,
      Bool.and_eq_true]
    tauto
  | rndsh k =>
    have hw : w = encode (.rndsh k) ↔ w.extractLsb' 14 18 = 0#18 ∧
        shiftField w = BitVec.ofNat 9 k ∧ opField w = 0x0B#5 :=
      eq_append_append_iff (h := 18) (m := 9) (l := 5) w 0#18 (BitVec.ofNat 9 k) 0x0B#5
    simp only [hw, OperandBits, opcodeOf, Instr.wellFormed, toNat_eq_iff, decide_eq_true_eq]
    tauto

/-- Decoding and encoding are one relation between words and well-formed commands (R62 to R68). -/
theorem decode_eq_instr_iff_encode (w : Word) (i : Instr) :
    decode w = .instr i ↔ i.wellFormed = true ∧ w = encode i :=
  (decode_eq_instr_iff w i).trans (opField_operandBits_iff_encode w i)

/-- Settles O1: a well-formed command's word decodes to it, by the relation of words and commands. -/
theorem decodeInvertsEncode : Obligations.DecodeInvertsEncode :=
  fun i hi => (decode_eq_instr_iff_encode (encode i) i).mpr ⟨hi, rfl⟩

/-- Settles O2: the same relation, read from the word. -/
theorem encodeInvertsDecode : Obligations.EncodeInvertsDecode := by
  intro w i h
  obtain ⟨hwf, henc⟩ := (decode_eq_instr_iff_encode w i).mp h
  exact ⟨hwf, henc.symm⟩

/-! ### Command words as numbers (R62 to R66) -/

theorem opField_eq_iff (w : Word) (op : BitVec 5) : opField w = op ↔ w.toNat % 32 = op.toNat :=
  extractLsb'_low_eq_iff w op

theorem sfmtField_eq_zero_iff (w : Word) : sfmtField w = 0#13 ↔ w.toNat / 2 ^ 5 % 2 ^ 13 = 0 := by
  rw [sfmtField, ← BitVec.toNat_inj, toNat_extractLsb', BitVec.toNat_zero]

/-- A word of format N is its opcode (R62). -/
theorem toNat_eq_of_formatN {w : Word} {op : BitVec 5} (hop : opField w = op)
    (hz : w.extractLsb' 5 27 = 0#27) : w.toNat = op.toNat := by
  have hlow := (opField_eq_iff w op).mp hop
  have hhigh := (extractLsb'_top_eq_zero_iff w rfl).mp hz
  omega

theorem exists_decode_decomp_iff (w : Word) : (∃ src, decode w = .instr (.decomp src)) ↔
    w.toNat / 2 ^ 18 = 0 ∧ w.toNat % 32 = 0x08 ∧ w.toNat / 2 ^ 6 % 8 ≤ 5 := by
  rw [← extractLsb'_top_eq_zero_iff w (l := 14) rfl, ← exists_decodeDescriptor_iff w 5]
  simp only [decode_eq_instr_iff, OperandBits, opcodeOf, exists_and_left, opField_eq_iff]
  exact and_left_comm

theorem exists_decode_recomp_iff (w : Word) : (∃ dst, decode w = .instr (.recomp dst)) ↔
    w.toNat / 2 ^ 31 = 0 ∧ w.toNat % 32 = 0x09 ∧ w.toNat / 2 ^ 5 % 2 ^ 13 = 0 ∧
    w.toNat / 2 ^ 19 % 8 ≤ 5 := by
  rw [← extractLsb'_top_eq_zero_iff w (l := 1) rfl, ← exists_decodeDescriptor_iff w 18]
  simp only [decode_eq_instr_iff, OperandBits, opcodeOf, exists_and_left, opField_eq_iff,
    sfmtField_eq_zero_iff]
  exact and_left_comm

theorem exists_decode_cvt_iff (w : Word) : (∃ src dst, decode w = .instr (.cvt src dst)) ↔
    w.toNat / 2 ^ 31 = 0 ∧ w.toNat % 32 = 0x0A ∧ w.toNat / 2 ^ 6 % 8 ≤ 5 ∧
    w.toNat / 2 ^ 19 % 8 ≤ 5 := by
  rw [← extractLsb'_top_eq_zero_iff w (l := 1) rfl, ← exists_decodeDescriptor_iff w 5,
    ← exists_decodeDescriptor_iff w 18]
  simp only [decode_eq_instr_iff, OperandBits, opcodeOf, exists_and_left, exists_and_right,
    opField_eq_iff]
  exact and_left_comm

theorem exists_decode_rndsh_iff (w : Word) : (∃ k, decode w = .instr (.rndsh k)) ↔
    w.toNat / 2 ^ 14 = 0 ∧ w.toNat % 32 = 0x0B := by
  rw [← extractLsb'_top_eq_zero_iff w (l := 18) rfl]
  simp only [decode_eq_instr_iff, OperandBits, opcodeOf, exists_and_left, exists_eq', and_true,
    opField_eq_iff]
  exact and_comm

/-- Settles O4: the operand bits of the command's format, read as numbers. -/
theorem decodedFieldsAreTheFormatsBits : Obligations.DecodedFieldsAreTheFormatsBits := by
  intro w i h
  obtain ⟨hop, hbits⟩ := (decode_eq_instr_iff w i).mp h
  have hlow := (opField_eq_iff w _).mp hop
  cases i with
  | nop | iadd | isub | ineg | imul => exact toNat_eq_of_formatN hop hbits
  | decomp src =>
    obtain ⟨hz, hsrc⟩ := hbits
    exact ⟨hlow, (extractLsb'_top_eq_zero_iff w rfl).mp hz, readsDescriptor_of_decode hsrc⟩
  | recomp dst =>
    obtain ⟨hz, hsfmt, hdst⟩ := hbits
    exact ⟨hlow, (extractLsb'_top_eq_zero_iff w rfl).mp hz, (sfmtField_eq_zero_iff w).mp hsfmt,
      readsDescriptor_of_decode hdst⟩
  | cvt src dst =>
    obtain ⟨hz, hsrc, hdst⟩ := hbits
    exact ⟨hlow, (extractLsb'_top_eq_zero_iff w rfl).mp hz, readsDescriptor_of_decode hsrc,
      readsDescriptor_of_decode hdst⟩
  | rndsh k =>
    obtain ⟨hz, rfl⟩ := hbits
    exact ⟨hlow, (extractLsb'_top_eq_zero_iff w rfl).mp hz, toNat_extractLsb' w 5 9⟩

/-- Settles O5: a row's mask tests the opcode and the must-be-zero bits of its format. -/
theorem wordsMatchTheOpcodeTable : Obligations.WordsMatchTheOpcodeTable := by
  intro w
  have hplain {i : Instr} (hi : i.wellFormed = true) : decode w = .instr i ↔ w = encode i :=
    (decode_eq_instr_iff_encode w i).trans (and_iff_right hi)
  have hdecomp : w &&& 0xFFFC001F#32 = 0x00000008#32 ↔ w.toNat / 2 ^ 18 = 0 ∧ w.toNat % 32 = 0x08 :=
    and_outerMask_eq_iff 14 13 5 w 0x08#5
  have hrecomp : w &&& 0x8003FFFF#32 = 0x00000009#32 ↔
      w.toNat / 2 ^ 31 = 0 ∧ w.toNat % 2 ^ 18 = 0x09 :=
    and_outerMask_eq_iff 1 13 18 w 0x09#18
  have hcvt : w &&& 0x8000001F#32 = 0x0000000A#32 ↔ w.toNat / 2 ^ 31 = 0 ∧ w.toNat % 32 = 0x0A :=
    and_outerMask_eq_iff 1 26 5 w 0x0A#5
  have hrndsh : w &&& 0xFFFFC01F#32 = 0x0000000B#32 ↔ w.toNat / 2 ^ 14 = 0 ∧ w.toNat % 32 = 0x0B :=
    and_outerMask_eq_iff 18 9 5 w 0x0B#5
  refine ⟨hplain rfl, hplain rfl, hplain rfl, hplain rfl, hplain rfl, ?_, ?_, ?_, ?_⟩
  · rw [exists_decode_decomp_iff, hdecomp, and_assoc]
  · rw [exists_decode_recomp_iff, hrecomp]
    omega
  · rw [exists_decode_cvt_iff, hcvt, and_assoc]
  · rw [exists_decode_rndsh_iff, hrndsh]

/-- A word that decodes meets none of the conditions of R66. -/
theorem not_illegalEncoding_of_decode {w : Word} {i : Instr} (h : decode w = .instr i) :
    ¬ Reference.IllegalEncoding w := by
  dsimp only [Reference.IllegalEncoding]
  cases i with
  | nop | iadd | isub | ineg | imul =>
    have hn := decodedFieldsAreTheFormatsBits w _ h
    dsimp only at hn
    omega
  | decomp src =>
    have hbits := (exists_decode_decomp_iff w).mp ⟨src, h⟩
    omega
  | recomp dst =>
    have hbits := (exists_decode_recomp_iff w).mp ⟨dst, h⟩
    omega
  | cvt src dst =>
    have hbits := (exists_decode_cvt_iff w).mp ⟨src, dst, h⟩
    omega
  | rndsh k =>
    have hbits := (exists_decode_rndsh_iff w).mp ⟨k, h⟩
    omega

/-- A word of format N is the command whose number it is (R62). -/
theorem exists_decode_of_le {w : Word} (h : w.toNat ≤ 4) : ∃ i, decode w = .instr i := by
  have hplain {i : Instr} (hi : i.wellFormed = true) (hw : w.toNat = (encode i).toNat) :
      ∃ i, decode w = .instr i :=
    ⟨i, (decode_eq_instr_iff_encode w i).mpr ⟨hi, BitVec.eq_of_toNat_eq hw⟩⟩
  obtain h0 | h1 | h2 | h3 | h4 : w.toNat = 0 ∨ w.toNat = 1 ∨ w.toNat = 2 ∨ w.toNat = 3 ∨
      w.toNat = 4 := by omega
  · exact hplain (i := .nop) rfl h0
  · exact hplain (i := .iadd) rfl h1
  · exact hplain (i := .isub) rfl h2
  · exact hplain (i := .ineg) rfl h3
  · exact hplain (i := .imul) rfl h4

/-- A word that meets none of them is a command, the one its OP selects (R66, R72). -/
theorem exists_decode_of_not_illegalEncoding {w : Word} (h : ¬ Reference.IllegalEncoding w) :
    ∃ i, decode w = .instr i := by
  simp only [Reference.IllegalEncoding, not_or] at h
  obtain ⟨hop, hplain, hdecomp, hrecomp, hcvt, hrndsh, hsrc, hdst⟩ := h
  obtain hsel | hsel | hsel | hsel | hsel : w.toNat % 32 ≤ 0x04 ∨ w.toNat % 32 = 0x08 ∨
      w.toNat % 32 = 0x09 ∨ w.toNat % 32 = 0x0A ∨ w.toNat % 32 = 0x0B := by omega
  · exact exists_decode_of_le (by omega)
  · obtain ⟨src, hd⟩ := (exists_decode_decomp_iff w).mpr (by omega)
    exact ⟨_, hd⟩
  · obtain ⟨dst, hd⟩ := (exists_decode_recomp_iff w).mpr (by omega)
    exact ⟨_, hd⟩
  · obtain ⟨src, dst, hd⟩ := (exists_decode_cvt_iff w).mpr (by omega)
    exact ⟨_, hd⟩
  · obtain ⟨k, hd⟩ := (exists_decode_rndsh_iff w).mpr (by omega)
    exact ⟨_, hd⟩

/-- Settles O3: no word that decodes meets R66, and a word that does not decode raises ILLEGAL. -/
theorem illegalEncodingRaisesIllegal : Obligations.IllegalEncodingRaisesIllegal := by
  intro w
  refine ⟨fun hill s rest hp => ?_, exists_decode_of_not_illegalEncoding⟩
  cases hd : decode w with
  | instr i => exact absurd hill (not_illegalEncoding_of_decode hd)
  | illegal why =>
    rw [step_cmd_write hp, executeWord_illegal hd]
    rfl

/-- Settles O6: the five words, each evaluated. -/
theorem writtenOutWordsDecode : Obligations.WrittenOutWordsDecode :=
  ⟨by decide, by decide, by decide, by decide, by decide⟩

end Sys2Proof
end

section
/-! SUPPORT. Which descriptors are valid, and which registers a command reads (spec/30_encoding.md R65, R69 to
R71). -/

namespace Sys2Proof.Machine

/-! ### Valid descriptors (R69 to R71) -/

/-- The defaults, W / 2 fractional bits or DEFMANT(W, S) mantissa bits, are always valid (R69, R71). -/
theorem valid_of_param_eq_zero {d : Descriptor} (h : d.param = 0) : d.valid = true := by
  obtain ⟨kind, width, signed, param⟩ := d
  obtain rfl : param = 0 := h
  cases kind <;> cases width <;> cases signed <;> decide

/-- A fixed-point parameter other than 0 is the count of fractional bits itself (R69). -/
theorem valid_iff_of_fixed {d : Descriptor} (hk : d.kind = .fixed) (h : d.param ≠ 0) :
    d.valid = true ↔ d.param + d.signBits ≤ d.bits := by
  simp [Descriptor.valid, Descriptor.fracBits, hk, h]

/-- A float parameter other than 0 is the count of mantissa bits itself (R70). -/
theorem valid_iff_of_float {d : Descriptor} (hk : d.kind = .float) (h : d.param ≠ 0) :
    d.valid = true ↔ d.param + d.signBits + 1 ≤ d.bits := by
  simp [Descriptor.valid, Descriptor.mantBits, hk, h, Nat.one_le_iff_ne_zero]

/-- Settles O8: P = 0 selects a valid default, and any other P is the count the bound speaks of. -/
theorem legalParametersPerWidth : Obligations.LegalParametersPerWidth := by
  intro d
  change (_ → (_ ↔ d.param ≤ d.bits - d.signBits)) ∧ (_ → (_ ↔ d.param + 1 ≤ d.bits - d.signBits))
  by_cases h0 : d.param = 0
  · have hv := valid_of_param_eq_zero h0
    refine ⟨fun _ => iff_of_true hv (by omega), fun hk => iff_of_true hv ?_⟩
    obtain ⟨hlayout, -, hexp⟩ := float_layout hk hv
    omega
  · refine ⟨fun hk => ?_, fun hk => ?_⟩
    · rw [valid_iff_of_fixed hk h0]
      omega
    · rw [valid_iff_of_float hk h0]
      omega

/-- Settles O9: the table is read off, and its twelve descriptors are valid as every default is. -/
theorem defaultMantissaTable : Obligations.DefaultMantissaTable := by
  refine ⟨by decide, fun w sg => ⟨rfl, valid_of_param_eq_zero rfl, ?_⟩, fun d => ⟨rfl, rfl⟩⟩
  cases w <;> cases sg <;> rfl

/-! ### The registers a command reads (R65) -/

/-- Settles O53: both states take the same branch of the command, and what it writes there is a function of
the operands on which they agree. -/
theorem commandsReadOnlyTheirOperands : Obligations.CommandsReadOnlyTheirOperands := by
  intro src dst k s s'
  refine ⟨fun ha => ?_, fun hds hdm hde => ?_, fun hdm hde => ?_⟩
  · have hraw : rawView src s'.a = rawView src s.a := ha.symm
    constructor
    · cases hv : src.valid with
      | false => exact ⟨_, _, execDecomp_invalid hv s, execDecomp_invalid hv s', by simp⟩
      | true => exact ⟨_, _, execDecomp_valid hv s, execDecomp_valid hv s', by simp [hraw]⟩
    · obtain ⟨hv, he⟩ | ⟨hs, hd, hc, he⟩ | ⟨raw, hs, hd, hc, he⟩ := execCvt_cases src dst s
      · exact ⟨_, _, he, execCvt_invalid hv s', rfl, by simp [ErrCode.code]⟩
      · exact ⟨_, _, he, execCvt_representation hs hd s' (hraw ▸ hc), by simp [hraw, ErrCode.code]⟩
      · exact ⟨_, _, he, execCvt_converted hs hd s' (hraw ▸ hc), by simp [hraw]⟩
  · cases hv : dst.valid with
    | false => exact ⟨_, _, execRecomp_invalid hv s, execRecomp_invalid hv s', by simp⟩
    | true => exact ⟨_, _, execRecomp_valid hv s, execRecomp_valid hv s', by simp [hds, hdm, hde]⟩
  · exact ⟨_, _, rfl, rfl, by simp [hdm, hde]⟩

end Sys2Proof.Machine
end

section
/-! SUPPORT. The assembler reads the text of a command back (spec/30_encoding.md R77). -/

namespace Sys2Proof.Machine

/-! ### Cutting a text -/

/-- A text without the separator is one piece. -/
theorem cutAt_of_notMem {c : Char} {xs : List Char} (h : c ∉ xs) : cutAt c xs = [xs] := by
  induction xs with
  | nil => rfl
  | cons x xs ih =>
    obtain ⟨hx, hxs⟩ := List.ne_and_not_mem_of_not_mem_cons h
    simp [cutAt, ih hxs, Ne.symm hx]

/-- The first separator ends the first piece. -/
theorem cutAt_append_cons {c : Char} {xs : List Char} (h : c ∉ xs) (ys : List Char) :
    cutAt c (xs ++ c :: ys) = xs :: cutAt c ys := by
  induction xs with
  | nil => simp [cutAt]
  | cons x xs ih =>
    obtain ⟨hx, hxs⟩ := List.ne_and_not_mem_of_not_mem_cons h
    simp [cutAt, ih hxs, Ne.symm hx]

/-- A text that begins with no space is kept whole. -/
theorem skipSpaces_of_notMem {xs : List Char} (h : ' ' ∉ xs) : skipSpaces xs = xs := by
  unfold skipSpaces
  split
  · simp at h
  · rfl

/-! ### Decimal numbers -/

theorem mem_decimalText {c : Char} {n : Nat} (h : c ∈ decimalText n) : c.isDigit = true :=
  Nat.isDigit_of_mem_toDigits (by decide) (by decide) h

/-- No separator of R77 is a digit. -/
theorem notMem_decimalText {c : Char} (hc : c.isDigit = false) (n : Nat) : c ∉ decimalText n :=
  fun h => by simp [mem_decimalText h] at hc

/-- Digits are read as the number they write, most significant first. -/
theorem digitsFrom_eq {xs : List Char} (h : ∀ c ∈ xs, c.isDigit = true) (acc : Nat) :
    digitsFrom acc xs = some (Nat.ofDigitChars 10 xs acc) := by
  induction xs generalizing acc with
  | nil => rfl
  | cons x xs ih =>
    obtain ⟨hx, hxs⟩ := List.forall_mem_cons.mp h
    have hrange : 48 ≤ x.toNat ∧ x.toNat ≤ 57 := by
      simpa [Char.isDigit, UInt32.le_iff_toNat_le] using hx
    rw [digitsFrom, if_pos hrange, ih hxs, Nat.ofDigitChars_cons]
    rfl

/-- A number is read back from its decimal text (R77). -/
theorem parseDecimal_decimalText (n : Nat) : parseDecimal (decimalText n) = some n := by
  have hne : decimalText n ≠ [] := Nat.toDigits_ne_nil
  have hdigits := digitsFrom_eq (fun _ => mem_decimalText (n := n)) 0
  rw [decimalText, Nat.ofDigitChars_ten_toDigits] at hdigits
  rw [parseDecimal]
  · exact hdigits
  · exact hne

/-! ### Formats -/

theorem widthOfBits_bits (w : Width) : widthOfBits w.bits = some w := by
  cases w <;> rfl

/-- `<kind>` of R77. -/
def kindText : Kind → List Char
  | .fixed => ['f', 'i', 'x']
  | .float => ['f', 'l', 't']

/-- `<sign><W>` of R77. -/
def signWidthText (d : Descriptor) : List Char :=
  (if d.signed then 's' else 'u') :: decimalText d.bits

/-- The text of a format is its parts of R77, separated by points. -/
theorem formatText_eq (d : Descriptor) : formatText d = kindText d.kind ++ '.' ::
    (signWidthText d ++ if d.param = 0 then [] else '.' :: decimalText d.param) := by
  unfold formatText kindText signWidthText
  cases d.kind <;> rfl

theorem parseKind_kindText (kind : Kind) : parseKind (kindText kind) = some kind := by
  cases kind <;> rfl

theorem parseSignWidth_signWidthText (d : Descriptor) :
    parseSignWidth (signWidthText d) = some (d.signed, d.width) := by
  have hwidth : (parseDecimal (decimalText d.bits)).bind widthOfBits = some d.width := by
    rw [parseDecimal_decimalText]
    exact widthOfBits_bits d.width
  unfold signWidthText
  cases d.signed <;> simp [parseSignWidth, hwidth]

theorem parseParam_decimalText {p : Nat} (h : p < 256) : parseParam (decimalText p) = some p := by
  simp [parseParam, parseDecimal_decimalText, h]

theorem kindText_subset (kind : Kind) : kindText kind ⊆ ['f', 'i', 'x', 'l', 't'] := by
  cases kind <;> decide

theorem notMem_kindText {c : Char} (h : c ∉ ['f', 'i', 'x', 'l', 't']) (kind : Kind) :
    c ∉ kindText kind :=
  fun hc => h (kindText_subset kind hc)

theorem notMem_signWidthText {c : Char} (hs : c ≠ 's') (hu : c ≠ 'u') (hc : c.isDigit = false)
    (d : Descriptor) : c ∉ signWidthText d := by
  refine List.not_mem_cons_of_ne_of_not_mem ?_ (notMem_decimalText hc _)
  split_ifs
  · exact hs
  · exact hu

/-- A format is read back from its text (R77). -/
theorem parseFormat_formatText {d : Descriptor} (h : d.wellFormed = true) :
    parseFormat (formatText d) = some d := by
  have hkind : '.' ∉ kindText d.kind := notMem_kindText (by decide) _
  have hsw : '.' ∉ signWidthText d := notMem_signWidthText (by decide) (by decide) (by decide) d
  have hp : d.param < 256 := of_decide_eq_true h
  rw [formatText_eq, parseFormat, cutAt_append_cons hkind]
  by_cases h0 : d.param = 0
  · rw [if_pos h0, List.append_nil, cutAt_of_notMem hsw]
    simp [parseKind_kindText, parseSignWidth_signWidthText, buildFormat, ← h0]
  · rw [if_neg h0, cutAt_append_cons hsw, cutAt_of_notMem (notMem_decimalText (by decide) _)]
    simp [parseKind_kindText, parseSignWidth_signWidthText, parseParam_decimalText hp, buildFormat]

theorem comma_notMem_formatText (d : Descriptor) : ',' ∉ formatText d := by
  have hkind : ',' ∉ kindText d.kind := notMem_kindText (by decide) _
  have hsw : ',' ∉ signWidthText d := notMem_signWidthText (by decide) (by decide) (by decide) d
  have hparam : ',' ∉ decimalText d.param := notMem_decimalText (by decide) _
  rw [formatText_eq]
  split_ifs <;> simp [hkind, hsw, hparam]

theorem skipSpaces_formatText_append (d : Descriptor) (ys : List Char) :
    skipSpaces (formatText d ++ ys) = formatText d ++ ys := by
  rw [formatText_eq]
  cases d.kind <;> rfl

theorem skipSpaces_formatText (d : Descriptor) : skipSpaces (formatText d) = formatText d := by
  simpa using skipSpaces_formatText_append d []

/-- Two formats are read back from their texts with R77's separator between them. -/
theorem parseFormats_formatText {src dst : Descriptor} (hs : src.wellFormed = true)
    (hd : dst.wellFormed = true) :
    parseFormats (formatText src ++ ([',', ' '] ++ formatText dst)) = some (src, dst) := by
  have hcut : cutAt ',' (formatText src ++ ',' :: ' ' :: formatText dst) =
      [formatText src, ' ' :: formatText dst] := by
    rw [cutAt_append_cons (comma_notMem_formatText src),
      cutAt_of_notMem (by simp [comma_notMem_formatText])]
  have hskip : skipSpaces (' ' :: formatText dst) = formatText dst := skipSpaces_formatText dst
  simp [parseFormats, hcut, hskip, parseFormat_formatText hs, parseFormat_formatText hd]

/-- Settles O7: the mnemonic selects the arm, and the operands' texts are read back. -/
theorem assemblerReadsCommandText : Obligations.AssemblerReadsCommandText := by
  intro i hi
  cases i with
  | nop | iadd | isub | ineg | imul => rfl
  | decomp src =>
    have harm : parseCommand (commandText (.decomp src)) =
        (parseFormat (skipSpaces (formatText src))).map .decomp := rfl
    rw [harm, skipSpaces_formatText, parseFormat_formatText hi, Option.map_some]
  | recomp dst =>
    have harm : parseCommand (commandText (.recomp dst)) =
        (parseFormat (skipSpaces (formatText dst))).map .recomp := rfl
    rw [harm, skipSpaces_formatText, parseFormat_formatText hi, Option.map_some]
  | cvt src dst =>
    obtain ⟨hs, hd⟩ := Bool.and_eq_true_iff.mp hi
    have harm : parseCommand (commandText (.cvt src dst)) =
        (parseFormats (skipSpaces (formatText src ++ [',', ' '] ++ formatText dst))).map
          fun x => .cvt x.1 x.2 := rfl
    rw [harm, List.append_assoc, skipSpaces_formatText_append, parseFormats_formatText hs hd,
      Option.map_some]
  | rndsh k =>
    have harm : parseCommand (commandText (.rndsh k)) =
        (parseDecimal (skipSpaces (decimalText k))).bind fun k =>
          if k < 512 then some (.rndsh k) else none := rfl
    have hk : k < 512 := of_decide_eq_true hi
    rw [harm, skipSpaces_of_notMem (notMem_decimalText (by decide) k), parseDecimal_decimalText,
      Option.bind_some, if_pos hk]

end Sys2Proof.Machine
end

section
/-! SUPPORT. The 96-bit integer results as numbers, and the statements about NOP and the integer commands
(spec/40_wide_integer.md R100 to R106). -/

namespace Sys2Proof.Machine

/-! ### The integer view and the integer result -/

/-- The integer view is the number modulo 2^96 (R21, R22). -/
theorem toNat_intView (x : Word128) : (intView x).toNat = x.toNat % 2 ^ 96 := by
  rw [intView, toNat_extractLsb', Nat.pow_zero, Nat.div_one]

/-- The integer view sees bits [95:0] only. -/
theorem intView_congr {x y : Word128} (h : x.toNat % 2 ^ 96 = y.toNat % 2 ^ 96) :
    intView x = intView y :=
  BitVec.eq_of_toNat_eq (by rw [toNat_intView, toNat_intView, h])

/-- The integer view of a zero-extended result is the result. -/
theorem intView_setWidth (v : Word96) : intView (BitVec.setWidth 128 v) = v :=
  BitVec.eq_of_toNat_eq <| by
    rw [toNat_intView, BitVec.toNat_setWidth_of_le (by decide), Nat.mod_eq_of_lt v.isLt]

/-- The end of an integer command, as the registers it writes (R100). -/
theorem finishInt_eq (s : State) (v : Word96) :
    finishInt s v = { s with r := BitVec.setWidth 128 v, status := 0#32 } := rfl

/-- The same, with the result given as the number it denotes. -/
theorem finishInt_eq_ofNat (s : State) {v : Word96} {n : Nat} (h : v.toNat = n) :
    finishInt s v = { s with r := BitVec.ofNat 128 n, status := 0#32 } := by
  rw [finishInt_eq, ← h, BitVec.ofNat_toNat]

/-- The same, with the result given as an integer. -/
theorem finishInt_eq_ofInt (s : State) {v : Word96} {n : Int} (h : (v.toNat : Int) = n) :
    finishInt s v = { s with r := BitVec.ofInt 128 n, status := 0#32 } := by
  rw [finishInt_eq_ofNat s rfl, ← h, BitVec.ofInt_natCast]

/-! ### What each integer command does (R102 to R105) -/

theorem exec_iadd (s : State) :
    exec .iadd s = .next (finishInt s (intView s.a + intView s.b)) := rfl

theorem exec_isub (s : State) :
    exec .isub s = .next (finishInt s (intView s.a - intView s.b)) := rfl

theorem exec_ineg (s : State) : exec .ineg s = .next (finishInt s (-intView s.a)) := rfl

theorem exec_imul (s : State) :
    exec .imul s = .next (finishInt s (intView s.a * intView s.b)) := rfl

/-- Every integer command writes a function of the two integer views (R100). -/
theorem exec_integer {i : Instr} (h : i = .iadd ∨ i = .isub ∨ i = .ineg ∨ i = .imul) :
    ∃ f : Word96 → Word96 → Word96, ∀ s : State,
      exec i s = .next (finishInt s (f (intView s.a) (intView s.b))) := by
  obtain rfl | rfl | rfl | rfl := h
  · exact ⟨(· + ·), exec_iadd⟩
  · exact ⟨(· - ·), exec_isub⟩
  · exact ⟨fun a _ => -a, exec_ineg⟩
  · exact ⟨(· * ·), exec_imul⟩

/-! ### The word-pair and limb forms -/

/-- A number is its two low 32-bit limbs and what stands above them. -/
theorem eq_limbs (n : Nat) :
    n = n % 2 ^ 32 + n / 2 ^ 32 % 2 ^ 32 * 2 ^ 32 + n / 2 ^ 64 * 2 ^ 64 := by
  omega

/-- The limb products of weight 2^96 and above do not reach the low 96 bits (R105). -/
theorem limbs_mul_mod (a0 a1 a2 b0 b1 b2 : Nat) :
    (a0 + a1 * 2 ^ 32 + a2 * 2 ^ 64) * (b0 + b1 * 2 ^ 32 + b2 * 2 ^ 64) % 2 ^ 96 =
      (a0 * b0 + (a0 * b1 + a1 * b0) * 2 ^ 32 + (a0 * b2 + a1 * b1 + a2 * b0) * 2 ^ 64) % 2 ^ 96 := by
  have hprod : (a0 + a1 * 2 ^ 32 + a2 * 2 ^ 64) * (b0 + b1 * 2 ^ 32 + b2 * 2 ^ 64) =
      a0 * b0 + (a0 * b1 + a1 * b0) * 2 ^ 32 + (a0 * b2 + a1 * b1 + a2 * b0) * 2 ^ 64 +
        (a1 * b2 + a2 * b1 + a2 * b2 * 2 ^ 32) * 2 ^ 96 := by ring
  rw [hprod, Nat.add_mul_mod_self_right]

/-! ### The statements -/

/-- Settles O21: both clauses are NOP's row of the encoder and its arm of `exec`. -/
theorem nopClearsStatusOnly : Obligations.NopClearsStatusOnly :=
  ⟨rfl, fun _ => rfl⟩

/-- Settles O22: 96-bit addition is the sum modulo 2^96, and the carry out of the low 64 bits is what the
high word adds. -/
theorem iaddAddsModulo96Bits : Obligations.IaddAddsModulo96Bits := by
  refine ⟨rfl, fun s => ⟨?_, ?_⟩⟩
  · have hsum : (intView s.a + intView s.b).toNat =
        (s.a.toNat % 2 ^ 96 + s.b.toNat % 2 ^ 96) % 2 ^ 96 := by
      rw [BitVec.toNat_add, toNat_intView, toNat_intView]
    rw [exec_iadd, finishInt_eq_ofNat s hsum]
  · split_ifs <;> omega

/-- Settles O23: 96-bit subtraction is the difference modulo 2^96, the borrow of the low 64 bits is what the
high word subtracts, and the complement form differs from it by 2^96. -/
theorem isubSubtractsModulo96Bits : Obligations.IsubSubtractsModulo96Bits := by
  refine ⟨rfl, fun s => ⟨?_, ?_, ?_⟩⟩
  · have hdiff : ((intView s.a - intView s.b).toNat : Int) =
        ((s.a.toNat : Int) % 2 ^ 96 - (s.b.toNat : Int) % 2 ^ 96) % 2 ^ 96 := by
      rw [BitVec.toNat_sub, toNat_intView, toNat_intView]
      omega
    rw [exec_isub, finishInt_eq_ofInt s hdiff]
  · split_ifs <;> omega
  · omega

/-- Settles O24: 96-bit negation is the complement to 2^96, and the low 64 bits carry into the high word only
when they are 0. -/
theorem inegNegatesModulo96Bits : Obligations.InegNegatesModulo96Bits := by
  refine ⟨rfl, fun s => ⟨?_, ?_⟩⟩
  · have hneg : (-intView s.a).toNat = (2 ^ 96 - s.a.toNat % 2 ^ 96) % 2 ^ 96 := by
      rw [BitVec.toNat_neg, toNat_intView]
    rw [exec_ineg, finishInt_eq_ofNat s hneg]
  · split_ifs <;> omega

/-- Settles O25: 96-bit multiplication is the product modulo 2^96, which the limb products below 2^96
give. -/
theorem imulMultipliesModulo96Bits : Obligations.ImulMultipliesModulo96Bits := by
  refine ⟨rfl, fun s => ⟨?_, ?_⟩⟩
  · have hprod : (intView s.a * intView s.b).toNat =
        s.a.toNat % 2 ^ 96 * (s.b.toNat % 2 ^ 96) % 2 ^ 96 := by
      rw [BitVec.toNat_mul, toNat_intView, toNat_intView]
    rw [exec_imul, finishInt_eq_ofNat s hprod]
  · rw [← limbs_mul_mod, ← eq_limbs, ← eq_limbs]

/-- Settles O26: the result is a function of the integer views, which the two states share. -/
theorem integerCommandsFrame : Obligations.IntegerCommandsFrame := by
  intro i hi s s' ha hb
  obtain ⟨f, hf⟩ := exec_integer hi
  refine ⟨BitVec.setWidth 128 (f (intView s.a) (intView s.b)), ?_, ?_, ?_⟩
  · rw [BitVec.toNat_setWidth_of_le (by decide)]
    exact BitVec.isLt _
  · rw [hf, finishInt_eq]
  · rw [hf, finishInt_eq, intView_congr ha, intView_congr hb]

/-- A result that is `v` modulo 2^96 as a signed number lies in the signed range and differs from `v` by a
multiple of 2^96. -/
theorem finishInt_signed (s : State) {w : Word96} {v : Int} (h : w.toInt = v.bmod (2 ^ 96)) :
    -2 ^ 95 ≤ (intView (finishInt s w).r).toInt ∧ (intView (finishInt s w).r).toInt < 2 ^ 95 ∧
      ∃ k : Int, (intView (finishInt s w).r).toInt = v + k * 2 ^ 96 := by
  rw [finishInt_r, intView_setWidth]
  refine ⟨BitVec.le_toInt w, BitVec.toInt_lt, -v.bdiv (2 ^ 96), ?_⟩
  have hdiv := Int.bmod_add_bdiv v (2 ^ 96)
  omega

/-- Settles O27: each 96-bit operation is the signed one reduced by `Int.bmod`. -/
theorem integerCommandsAreSignedToo : Obligations.IntegerCommandsAreSignedToo := by
  rintro s a b i v (⟨rfl, rfl⟩ | ⟨rfl, rfl⟩ | ⟨rfl, rfl⟩ | ⟨rfl, rfl⟩)
  · exact ⟨_, exec_iadd s, finishInt_signed s (BitVec.toInt_add _ _)⟩
  · exact ⟨_, exec_isub s, finishInt_signed s (BitVec.toInt_sub)⟩
  · exact ⟨_, exec_ineg s, finishInt_signed s BitVec.toInt_neg⟩
  · exact ⟨_, exec_imul s, finishInt_signed s (BitVec.toInt_mul _ _)⟩

end Sys2Proof.Machine
end

section
/-! SUPPORT. What DECOMP leaves class by class, and CVT as DECOMP followed by RECOMP (spec/41_decompose.md R120
to R127, spec/42_recompose.md R144, R145). -/

namespace Sys2Proof.Machine

/-- What a valid DECOMP writes besides DM and DE, which `exec_decomp_registers` gives: the sign and the class
of the storage view, and no register but DS, DM, DE and STATUS (R126). -/
theorem exec_decomp_frame {src : Descriptor} (hv : src.valid = true) {s t : State}
    (h : exec (.decomp src) s = .next t) :
    t = { s with ds := t.ds, dm := t.dm, de := t.de, status := t.status } ∧
    t.ds = BitVec.ofBool (decompose src (rawView src s.a)).neg ∧
    t.status = mkStatus .none (Reference.wordClass src s.a) .none := by
  obtain rfl : _ = t := Host.Outcome.next.inj ((execDecomp_valid hv s).symm.trans h)
  refine ⟨rfl, rfl, ?_⟩
  rw [complete_status, decompose_cls, classOf_rawView hv]

/-! ### DECOMP of a fixed-point word (R124) -/

/-- The class of a fixed-point word tells 0 from the other integers (R120). -/
theorem wordClass_of_fixed {d : Descriptor} (hk : d.kind = .fixed) (x : Word128) :
    Reference.wordClass d x = if Reference.fixedInteger d x = 0 then .zero else .fixnz := by
  simp [Reference.wordClass, hk]

/-- Settles O28: the decomposition of a fixed-point word is that of its integer iv. -/
theorem decompOfFixedWord : Obligations.DecompOfFixedWord := by
  intro src s hk hv iv
  obtain ⟨t, ht, -, hdm, hde⟩ := exec_decomp_registers hv s
  obtain ⟨hframe, hds, hst⟩ := exec_decomp_frame hv ht
  rw [decompose_fixed hk, fixedInt_rawView] at hds hdm
  rw [decompose_fixed hk] at hde
  rw [wordClass_of_fixed hk] at hst
  refine ⟨t, ht, hframe, hds.trans ?_, hdm, hde, hst.trans ?_⟩
  · by_cases hneg : iv < 0 <;> simp [iv, hneg]
  · split_ifs <;> rfl

/-! ### DECOMP of a float word (R122, R125) -/

section
variable {d : Descriptor} (hk : d.kind = .float)
include hk

/-- The sign of a float word is its sign field, whatever its class (R125). -/
theorem decompose_neg_float (raw : Nat) : (decompose d raw).neg = signField d raw := by
  simp only [decompose, hk, decomposeFloat]
  cases floatClass d raw <;> rfl

/-- The exponent field 0 is that of a zero or a subnormal word (R122). -/
theorem wordClass_of_floatExp_zero {x : Word128} (h0 : Reference.floatExp d x = 0) :
    Reference.wordClass d x = if Reference.floatMant d x = 0 then .zero else .subnormal := by
  simp [Reference.wordClass, hk, h0]

/-- The largest exponent field is that of an Infinity or a NaN (R122). -/
theorem wordClass_of_floatExp_emax {x : Word128} (h0 : Reference.floatExp d x ≠ 0)
    (h1 : Reference.floatExp d x = d.emax) :
    Reference.wordClass d x = if Reference.floatMant d x = 0 then .infinity else .nan := by
  simp [Reference.wordClass, hk, h1 ▸ h0, h1]

/-- Every exponent field between is that of a normal word (R122). -/
theorem wordClass_of_floatExp_between {x : Word128} (h0 : Reference.floatExp d x ≠ 0)
    (h1 : Reference.floatExp d x ≠ d.emax) : Reference.wordClass d x = .normal := by
  simp [Reference.wordClass, hk, h0, h1]

end

/-- Settles O29: the exponent field decides the class, and with it what the decomposer answers. -/
theorem decompOfFloatWord : Obligations.DecompOfFloatWord := by
  intro src s hk hv b m
  obtain ⟨t, ht, -, hdm, hde⟩ := exec_decomp_registers hv s
  obtain ⟨hframe, hds, hst⟩ := exec_decomp_frame hv ht
  have hexp : expField src (rawView src s.a) = b := expField_rawView hk hv s.a
  have hmant : mantField src (rawView src s.a) = m := mantField_rawView hk hv s.a
  rw [decompose_neg_float hk, signField_rawView] at hds
  refine ⟨t, ht, hframe, hds, fun ⟨h0, h1⟩ => ?normal, fun h0 => ?zero, fun h1 => ?nonFinite⟩
  case normal =>
    rw [decompose_normal hk (hexp ▸ h0.ne') (hexp ▸ h1.ne)] at hdm hde
    rw [wordClass_of_floatExp_between hk h0.ne' h1.ne] at hst
    exact ⟨hmant ▸ hdm, hexp ▸ hde, hst⟩
  case zero =>
    rw [decompose_of_expField_zero hk (hexp.trans h0)] at hdm hde
    rw [wordClass_of_floatExp_zero hk h0] at hst
    refine ⟨hmant ▸ hdm, hde, hst.trans ?_⟩
    split_ifs <;> rfl
  case nonFinite =>
    have h0 : b ≠ 0 := h1 ▸ (emax_pos hk hv).ne'
    rw [decompose_nonFinite hk (hexp ▸ h0) (hexp.trans h1)] at hdm hde
    rw [wordClass_of_floatExp_emax hk h0 h1] at hst
    refine ⟨BitVec.eq_of_toNat_eq hdm, BitVec.eq_of_toInt_eq hde, hst.trans ?_⟩
    split_ifs <;> rfl

/-! ### CVT through the decomposition registers (R127) -/

/-- Away from Infinity and NaN, CVT's raw result is Recompose of the decomposition (R145). -/
theorem convert_of_finite (dst : Descriptor) {x : Decomposition} (h : ¬ Reference.NonFinite x.cls) :
    convert dst x = some (recompose dst x.neg x.mag x.exp) :=
  if_neg h

/-- Settles O46: RECOMP reads back from DS, DM and DE the very decomposition that CVT recomposes. -/
theorem cvtIsDecompThenRecomp : Obligations.CvtIsDecompThenRecomp := by
  intro src dst s hsrc hdst hfin
  obtain ⟨t, ht, hds, hdm, hde⟩ := exec_decomp_registers hsrc s
  obtain ⟨-, -, hst⟩ := exec_decomp_frame hsrc ht
  have hcls : (decompose src (rawView src s.a)).cls = Reference.wordClass src s.a := by
    rw [decompose_cls, classOf_rawView hsrc]
  have hcvt := execCvt_converted hsrc hdst s (convert_of_finite dst (hcls.symm ▸ hfin))
  have hrecomp := execRecomp_valid hdst t
  rw [hds, hdm, hde] at hrecomp
  exact ⟨t, _, _, ht, hrecomp, hcvt, rfl, by simp, by simp [hst, hcls], rfl⟩

end Sys2Proof.Machine
end

section
/-! SUPPORT. Rounding to the nearest integer with ties to even, and the shift to either side with which the
recomposer rounds (spec/42_recompose.md R141, R142, R147, spec/43_rounder.md R160, R161). -/

namespace Sys2Proof.Machine

/-! ### The nearest integer -/

/-- `n` is an integer nearest to `v`, even where two are equally near (R147, R161). -/
def NearestEven (n : Int) (v : ℚ) : Prop :=
  2 * |(n : ℚ) - v| ≤ 1 ∧ (2 * |(n : ℚ) - v| = 1 → n % 2 = 0)

theorem nearestEven_self (n : Int) : NearestEven n n := by
  simp [NearestEven]

theorem NearestEven.neg {n : Int} {v : ℚ} (h : NearestEven n v) : NearestEven (-n) (-v) := by
  have habs : |((-n : Int) : ℚ) - -v| = |(n : ℚ) - v| := by
    rw [Int.cast_neg, neg_sub_neg, abs_sub_comm]
  obtain ⟨hle, htie⟩ := h
  rw [NearestEven, habs]
  exact ⟨hle, fun heq => by have := htie heq; omega⟩

/-- The rounding of a signed number is the signed rounding of its magnitude. -/
theorem NearestEven.signed {q : Nat} {v : ℚ} (h : NearestEven q v) (neg : Bool) :
    NearestEven (if neg then -(q : Int) else q) ((if neg then (-1 : ℚ) else 1) * v) := by
  cases neg with
  | false => simpa using h
  | true => simpa using h.neg

/-- No integer is nearer, and an equally near other one leaves the even one chosen (R147). -/
theorem NearestEven.nearest {n : Int} {v : ℚ} (h : NearestEven n v) (j : Int) :
    |(n : ℚ) - v| ≤ |(j : ℚ) - v| ∧ (j ≠ n → |(n : ℚ) - v| = |(j : ℚ) - v| → n % 2 = 0) := by
  obtain ⟨hle, htie⟩ := h
  by_cases hj : j = n
  · subst hj
    exact ⟨le_rfl, fun hne => absurd rfl hne⟩
  · have hgap : (1 : ℚ) ≤ |(n : ℚ) - j| := by
      exact_mod_cast Int.one_le_abs (sub_ne_zero.mpr (Ne.symm hj))
    have htri : |(n : ℚ) - j| ≤ |(n : ℚ) - v| + |(j : ℚ) - v| := by
      rw [abs_sub_comm (j : ℚ) v]
      exact abs_sub_le _ _ _
    exact ⟨by linarith, fun _ heq => htie (by linarith)⟩

/-- The nearest integer to an integer is that integer. -/
theorem NearestEven.eq_of_int {n j : Int} (h : NearestEven n j) : n = j := by
  have hle := (h.nearest j).1
  rw [sub_self, abs_zero, abs_nonpos_iff, sub_eq_zero] at hle
  exact_mod_cast hle

/-- Rounding does not pass an integer bound above. -/
theorem NearestEven.le_of_le {n j : Int} {v : ℚ} (h : NearestEven n v) (hv : v ≤ j) : n ≤ j := by
  by_contra hlt
  have hn : (j : ℚ) + 1 ≤ n := by exact_mod_cast (by omega : j + 1 ≤ n)
  have := le_abs_self ((n : ℚ) - v)
  linarith [h.1]

/-- Nor an integer bound below. -/
theorem NearestEven.ge_of_ge {n j : Int} {v : ℚ} (h : NearestEven n v) (hv : j ≤ v) : j ≤ n := by
  have := h.neg.le_of_le (j := -j) (by push_cast; linarith)
  omega

/-- An even integer is reached from half a unit below it on (R147). -/
theorem NearestEven.even_le_iff {n top : Int} {v : ℚ} (h : NearestEven n v) (heven : top % 2 = 0) :
    top ≤ n ↔ (top : ℚ) - 1 / 2 ≤ v := by
  obtain ⟨hle, htie⟩ := h
  obtain ⟨hlow, hhigh⟩ := abs_le.mp (show |(n : ℚ) - v| ≤ 1 / 2 by linarith)
  constructor
  · intro htop
    have : (top : ℚ) ≤ n := by exact_mod_cast htop
    linarith
  · intro hv
    by_contra hlt
    have hn : (n : ℚ) ≤ top - 1 := by exact_mod_cast (by omega : n ≤ top - 1)
    have hdist : |(n : ℚ) - v| = 1 / 2 := by
      rw [abs_of_nonpos (by linarith)]
      linarith
    have hcast : (n : ℚ) = ((top - 1 : Int) : ℚ) := by push_cast; linarith
    have hodd : n = top - 1 := by exact_mod_cast hcast
    have := htie (by linarith)
    omega

/-- Rounding in units of u is nearest among the multiples of u, and of two nearest the even one. -/
theorem NearestEven.nearest_multiple {n : Int} {v u : ℚ} (hu : 0 < u) (h : NearestEven n (v / u))
    (j : Int) :
    |n * u - v| ≤ |j * u - v| ∧ ((j : ℚ) * u ≠ n * u → |n * u - v| = |j * u - v| → n % 2 = 0) := by
  have hscale (i : Int) : |i * u - v| = |(i : ℚ) - v / u| * u := by
    rw [← abs_of_pos hu, ← abs_mul, abs_of_pos hu, sub_mul, div_mul_cancel₀ _ hu.ne']
  obtain ⟨hle, htie⟩ := h.nearest j
  rw [hscale, hscale]
  exact ⟨mul_le_mul_of_nonneg_right hle hu.le, fun hne heq =>
    htie (fun hj => hne (by rw [hj])) (mul_right_cancel₀ hu.ne' heq)⟩

/-- Rounding in units of u is nearer than any number below k units where the value is k units or more: k
units lie between. -/
theorem NearestEven.lt_of_abs_lt {n : Int} {v u y : ℚ} (hu : 0 < u) (h : NearestEven n (v / u)) {k : Nat}
    (hk : k * u ≤ |v|) (hy : |y| < k * u) : |n * u - v| < |y - v| := by
  have hbetween : ∃ j : Int, |j * u - v| = |v| - k * u := by
    obtain hpos | hneg := le_total 0 v
    · refine ⟨k, ?_⟩
      rw [abs_of_nonneg hpos] at hk ⊢
      rw [Int.cast_natCast, abs_of_nonpos (by linarith), neg_sub]
    · refine ⟨-k, ?_⟩
      rw [abs_of_nonpos hneg] at hk ⊢
      rw [Int.cast_neg, Int.cast_natCast, abs_of_nonneg (by linarith)]
      ring
  obtain ⟨j, hj⟩ := hbetween
  calc |n * u - v| ≤ |v| - k * u := hj ▸ (h.nearest_multiple hu j).1
    _ < |v| - |y| := by linarith
    _ ≤ |y - v| := abs_sub_comm v y ▸ abs_sub_abs_le_abs_sub v y

/-- A quotient is rounded by its numerator: what is left is at most half the divisor (R161). -/
theorem nearestEven_div {n a D : Int} (hD : 0 < D) (hle : 2 * |n * D - a| ≤ D)
    (htie : 2 * |n * D - a| = D → n % 2 = 0) : NearestEven n ((a : ℚ) / D) := by
  have hDq : (0 : ℚ) < D := by exact_mod_cast hD
  have habs : 2 * |(n : ℚ) - a / D| = ((2 * |n * D - a| : Int) : ℚ) / D := by
    rw [sub_div' hDq.ne', abs_div, abs_of_pos hDq]
    push_cast
    ring
  rw [NearestEven, habs, div_le_one hDq, div_eq_one_iff_eq hDq.ne']
  exact ⟨by exact_mod_cast hle, fun heq => htie (by exact_mod_cast heq)⟩

/-! ### The rounder -/

/-- M < 2^n has at most n bits (R9). -/
theorem bitlen_le {M n : Nat} (h : M < 2 ^ n) : bitlen M ≤ n := by
  obtain rfl | hM := Nat.eq_zero_or_pos M
  · simp
  · have := (Nat.pow_lt_pow_iff_right (by omega)).mp ((two_pow_bitlen_le hM).trans_lt h)
    omega

/-- M ≥ 2^n has more than n bits (R9). -/
theorem lt_bitlen {M n : Nat} (h : 2 ^ n ≤ M) : n < bitlen M :=
  (Nat.pow_lt_pow_iff_right (by omega)).mp (h.trans_lt (lt_two_pow_bitlen M))

/-- The model's shortcut for a shift beyond the bits of M answers what the rule answers (R160). -/
theorem rne_eq_reference (M k : Nat) : rne M k = Reference.rne M k := by
  unfold rne
  split_ifs with hbeyond
  · have hhalf : M < 2 ^ (k - 1) :=
      (lt_two_pow_bitlen M).trans_le (Nat.pow_le_pow_right (by omega) (by omega))
    have hquot : M / 2 ^ k = 0 :=
      Nat.div_eq_of_lt (hhalf.trans_le (Nat.pow_le_pow_right (by omega) (by omega)))
    rw [Reference.rne, if_neg (by omega), hquot, if_neg (by omega)]
  · rfl

theorem nearestEven_rne (M k : Nat) : NearestEven (rne M k) ((M : ℚ) * 2 ^ (-(k : Int))) := by
  have hdiv : (M : ℚ) * 2 ^ (-(k : Int)) = ((M : Int) : ℚ) / ((2 ^ k : Nat) : Int) := by
    rw [zpow_neg, zpow_natCast, div_eq_mul_inv]
    push_cast
    rfl
  rw [hdiv, rne_eq_reference, Reference.rne]
  obtain rfl | hk := Nat.eq_zero_or_pos k
  · simpa using nearestEven_self M
  have htwice : 2 ^ k = 2 * 2 ^ (k - 1) := by
    rw [← Nat.pow_succ', Nat.succ_eq_add_one, Nat.sub_add_cancel hk]
  have hpos := Nat.two_pow_pos (k - 1)
  have hsplit : M / 2 ^ k * 2 ^ k + M % 2 ^ k = M := by rw [Nat.mul_comm]; exact Nat.div_add_mod _ _
  have hrem : M % 2 ^ k < 2 ^ k := Nat.mod_lt _ (Nat.two_pow_pos k)
  have hup : (M / 2 ^ k + 1) * 2 ^ k = M / 2 ^ k * 2 ^ k + 2 ^ k := Nat.succ_mul _ _
  rw [if_neg hk.ne']
  split_ifs
  · refine nearestEven_div (by positivity) ?_ ?_ <;>
      rw [← Nat.cast_mul, hup, Int.abs_eq_natAbs] <;> omega
  · refine nearestEven_div (by positivity) ?_ ?_ <;>
      rw [← Nat.cast_mul, Int.abs_eq_natAbs] <;> omega

/-- M * 2^(-k) rounded to an integer, for a shift to either side: what `FixTarget` and both ranges of
`FloatTarget` do with the magnitude (R141, R142). -/
def roundShift (M : Nat) (k : Int) : Nat := if 0 ≤ k then rne M k.toNat else M * 2 ^ (-k).toNat

theorem nearestEven_roundShift (M : Nat) (k : Int) :
    NearestEven (roundShift M k) ((M : ℚ) * 2 ^ (-k)) := by
  unfold roundShift
  split_ifs with hk
  · have hcast : ((k.toNat : Nat) : Int) = k := Int.toNat_of_nonneg hk
    simpa only [hcast] using nearestEven_rne M k.toNat
  · have hcast : -k = (((-k).toNat : Nat) : Int) := by omega
    rw [hcast, zpow_natCast, Int.toNat_natCast]
    exact_mod_cast nearestEven_self _

/-- A shift to the left loses nothing. -/
theorem roundShift_neg (M n : Nat) : roundShift M (-n) = M * 2 ^ n := by
  cases n with
  | zero => simp [roundShift, rne, rneRule]
  | succ n =>
    rw [roundShift, if_neg (by omega), neg_neg, Int.toNat_natCast]

@[simp] theorem roundShift_zero (M : Nat) : roundShift M 0 = M := by
  simpa using roundShift_neg M 0

/-- The difference of two counts shifts to the side of the greater one (R142). -/
theorem roundShift_sub (M a b : Nat) :
    roundShift M ((a : Int) - b) = if b < a then rne M (a - b) else M * 2 ^ (b - a) := by
  split_ifs with hlt
  · rw [roundShift, if_pos (by omega)]
    congr 1
    omega
  · rw [← roundShift_neg]
    congr 1
    omega

theorem zero_roundShift (k : Int) : roundShift 0 k = 0 :=
  Nat.cast_eq_zero.mp (NearestEven.eq_of_int (j := 0) (by simpa using nearestEven_roundShift 0 k))

end Sys2Proof.Machine
end

section
/-! SUPPORT. Recomposition into a fixed-point format: one rounding and one saturation (spec/42_recompose.md
R141, R147). -/

namespace Sys2Proof.Machine

/-- The least integer of a fixed-point format (R141). -/
def fixedLo (d : Descriptor) : Int := if d.signed then -2 ^ (d.bits - 1) else 0

/-- The greatest integer of a fixed-point format (R141). -/
def fixedHi (d : Descriptor) : Int := if d.signed then 2 ^ (d.bits - 1) - 1 else 2 ^ d.bits - 1

/-- The storage range in powers of two: a format of W - S bits and S sign bits (R68, R141). -/
theorem fixedLo_fixedHi_cases (d : Descriptor) :
    (0 : Int) < 2 ^ (d.bits - 1) ∧ (2 : Int) ^ d.bits = 2 * 2 ^ (d.bits - 1) ∧
    ((d.signed = true ∧ fixedLo d = -2 ^ (d.bits - 1) ∧ fixedHi d = 2 ^ (d.bits - 1) - 1) ∨
      (d.signed = false ∧ fixedLo d = 0 ∧ fixedHi d = 2 ^ d.bits - 1)) := by
  refine ⟨by positivity, ?_, ?_⟩
  · rw [← pow_succ', Nat.sub_add_cancel (bits_pos d)]
  · cases hs : d.signed <;> simp [fixedLo, fixedHi, hs]

theorem clamp_eq_max_min {v lo hi : Int} (h : lo ≤ hi) : clamp v lo hi = max lo (min hi v) := by
  unfold clamp
  split_ifs <;> omega

/-- The integer of a sign and a magnitude, held in the storage range (R141). -/
def saturatedInt (d : Descriptor) (n : Int) : Int := max (fixedLo d) (min (fixedHi d) n)

theorem saturate_eq (d : Descriptor) (neg : Bool) (q : Nat) :
    saturate d neg q = (saturatedInt d (if neg then -(q : Int) else q) % 2 ^ d.bits).toNat := by
  obtain ⟨hpos, htwice, ⟨hs, hlo, hhi⟩ | ⟨hs, hlo, hhi⟩⟩ := fixedLo_fixedHi_cases d <;>
    simp only [saturate, saturatedInt, hs, hlo, hhi, if_true, Bool.false_eq_true, if_false] <;>
    rw [clamp_eq_max_min (by omega)]

/-- An integer in the storage range is held as it is. -/
theorem saturatedInt_of_mem {d : Descriptor} {n : Int} (hlo : fixedLo d ≤ n) (hhi : n ≤ fixedHi d) :
    saturatedInt d n = n := by
  unfold saturatedInt
  omega

/-- Every magnitude from 2^W on saturates alike, which the model's cap of a left shift uses (log entry 13). -/
theorem saturate_of_two_pow_le {d : Descriptor} (neg : Bool) {q : Nat} (h : 2 ^ d.bits ≤ q) :
    saturate d neg q = saturate d neg (2 ^ d.bits) := by
  have hq : (2 : Int) ^ d.bits ≤ q := by exact_mod_cast h
  rw [saturate_eq, saturate_eq]
  congr 2
  unfold saturatedInt
  obtain ⟨hpos, htwice, ⟨-, hlo, hhi⟩ | ⟨-, hlo, hhi⟩⟩ := fixedLo_fixedHi_cases d <;>
    cases neg <;> simp only [if_true, Bool.false_eq_true, if_false, Nat.cast_pow, Nat.cast_two] <;> omega

theorem saturate_zero (d : Descriptor) (neg : Bool) : saturate d neg 0 = 0 := by
  obtain ⟨hpos, htwice, hcases⟩ := fixedLo_fixedHi_cases d
  rw [saturate_eq, saturatedInt_of_mem] <;> simp <;> omega

/-- `FixTarget` is one rounding of the magnitude scaled by 2^f and one saturation, whatever the magnitude and
the power (R141, R147). -/
theorem fixTarget_eq_saturate (d : Descriptor) (neg : Bool) (M : Nat) (E : Int) :
    fixTarget d neg M E = saturate d neg (roundShift M (-(E + d.fracBits))) := by
  unfold fixTarget
  split_ifs with hM
  · rw [hM, zero_roundShift, saturate_zero]
  dsimp only
  obtain hright | hleft := lt_or_ge (E + d.fracBits) 0
  · rw [if_neg (by omega), roundShift, if_pos (by omega)]
  · obtain ⟨n, hn⟩ := Int.eq_ofNat_of_zero_le hleft
    rw [if_pos hleft, hn, roundShift_neg, Int.toNat_natCast, shiftUpCapped]
    split_ifs with hcap
    · refine (saturate_of_two_pow_le neg ?_).symm
      calc 2 ^ d.bits ≤ 2 ^ (bitlen M - 1 + n) := Nat.pow_le_pow_right (by omega) (by omega)
        _ = 2 ^ (bitlen M - 1) * 2 ^ n := Nat.pow_add ..
        _ ≤ M * 2 ^ n := Nat.mul_le_mul_right _ (two_pow_bitlen_le (Nat.pos_of_ne_zero hM))
    · rfl

/-- So is the rule over unbounded integers (R141). -/
theorem reference_fixTarget_eq (d : Descriptor) (neg : Bool) (M : Nat) (E : Int) :
    Reference.fixTarget d neg M E = saturate d neg (roundShift M (-(E + d.fracBits))) := by
  have hq : (if 0 ≤ E + d.fracBits then (M : Int) * 2 ^ (E + d.fracBits).toNat
      else Reference.rne M (-(E + d.fracBits)).toNat) = roundShift M (-(E + d.fracBits)) := by
    obtain hright | hleft := lt_or_ge (E + d.fracBits) 0
    · rw [if_neg (by omega), roundShift, if_pos (by omega), rne_eq_reference]
    · obtain ⟨n, hn⟩ := Int.eq_ofNat_of_zero_le hleft
      rw [if_pos hleft, hn, roundShift_neg, Int.toNat_natCast]
      push_cast
      rfl
  simp only [Reference.fixTarget, hq]
  split_ifs with hM
  · rw [hM, zero_roundShift, saturate_zero]
  all_goals simp_all [saturate_eq, saturatedInt, fixedLo, fixedHi]

/-- Settles O36: model and rule round the scaled magnitude once and saturate alike. -/
theorem fixedRecomposeIsTheRule : Obligations.FixedRecomposeIsTheRule := by
  intro dst neg M E hk _
  rw [recompose, hk, fixTarget_eq_saturate, reference_fixTarget_eq]

/-! ### The integer of a word -/

/-- A word of W bits stands for an integer of the storage range (R120). -/
theorem fixedInt_mem {d : Descriptor} {raw : Nat} (h : raw < 2 ^ d.bits) :
    fixedLo d ≤ fixedInt d raw ∧ fixedInt d raw ≤ fixedHi d := by
  have hcast : (raw : Int) < 2 ^ d.bits := by exact_mod_cast h
  have hhalf : ((2 ^ (d.bits - 1) : Nat) : Int) = 2 ^ (d.bits - 1) := by norm_cast
  obtain ⟨hpos, htwice, ⟨hs, hlo, hhi⟩ | ⟨hs, hlo, hhi⟩⟩ := fixedLo_fixedHi_cases d
  · rw [fixedInt, if_pos hs, signedOf]
    split_ifs <;> omega
  · rw [fixedInt, if_neg (by simp [hs])]
    omega

/-- A word of W bits is its integer modulo 2^W (R141). -/
theorem toNat_fixedInt_emod {d : Descriptor} {raw : Nat} (h : raw < 2 ^ d.bits) :
    (fixedInt d raw % 2 ^ d.bits).toNat = raw := by
  have hcast : ((raw : Int)) % 2 ^ d.bits = raw :=
    Int.emod_eq_of_lt (by omega) (by exact_mod_cast h)
  unfold fixedInt signedOf
  split_ifs
  · rw [Int.sub_emod_right, hcast, Int.toNat_natCast]
  · rw [hcast, Int.toNat_natCast]
  · rw [hcast, Int.toNat_natCast]

/-- The word of an integer of the storage range stands for it (R120, R141). -/
theorem fixedInt_toNat_emod {d : Descriptor} {c : Int} (hlo : fixedLo d ≤ c) (hhi : c ≤ fixedHi d) :
    fixedInt d (c % 2 ^ d.bits).toNat = c := by
  have hhalf : ((2 ^ (d.bits - 1) : Nat) : Int) = 2 ^ (d.bits - 1) := by norm_cast
  obtain ⟨hpos, htwice, hcases⟩ := fixedLo_fixedHi_cases d
  have hmod : c % 2 ^ d.bits = if c < 0 then c + 2 ^ d.bits else c := by
    split_ifs with hneg
    · rw [← Int.add_emod_right, Int.emod_eq_of_lt (by omega) (by omega)]
    · exact Int.emod_eq_of_lt (by omega) (by omega)
  rw [hmod]
  obtain ⟨hs, hlo', hhi'⟩ | ⟨hs, hlo', hhi'⟩ := hcases
  · rw [fixedInt, if_pos hs, signedOf]
    split_ifs <;> omega
  · rw [fixedInt, if_neg (by simp [hs])]
    split_ifs <;> omega

theorem fixedInt_injective {d : Descriptor} {raw raw' : Nat} (h : raw < 2 ^ d.bits)
    (h' : raw' < 2 ^ d.bits) (heq : fixedInt d raw = fixedInt d raw') : raw = raw' := by
  rw [← toNat_fixedInt_emod h, heq, toNat_fixedInt_emod h']

theorem fixedInt_saturate (d : Descriptor) (neg : Bool) (q : Nat) :
    fixedInt d (saturate d neg q) = saturatedInt d (if neg then -(q : Int) else q) := by
  obtain ⟨hpos, htwice, hcases⟩ := fixedLo_fixedHi_cases d
  rw [saturate_eq, fixedInt_toNat_emod] <;> unfold saturatedInt <;> omega

/-! ### One rounding (R147) -/

section
variable {d : Descriptor} (hk : d.kind = .fixed)
include hk

/-- The integer of a fixed-point result: the exact value times 2^f, rounded once, then held in the storage
range (R141, R147). -/
theorem recompose_fixed_rounds (neg : Bool) (M : Nat) (E : Int) :
    ∃ n : Int, NearestEven n (Reference.exactValue neg M E * 2 ^ (d.fracBits : Int)) ∧
      fixedInt d (recompose d neg M E) = saturatedInt d n := by
  have hround := (nearestEven_roundShift M (-(E + d.fracBits))).signed neg
  rw [neg_neg, zpow_add₀ two_ne_zero, ← mul_assoc, ← mul_assoc] at hround
  exact ⟨_, hround, by rw [recompose, hk, fixTarget_eq_saturate, fixedInt_saturate]⟩

/-- A value that is an integer of the format is kept exactly. -/
theorem fixedInt_recompose_exact {neg : Bool} {M : Nat} {E n : Int}
    (hn : Reference.exactValue neg M E * 2 ^ (d.fracBits : Int) = n) (hlo : fixedLo d ≤ n)
    (hhi : n ≤ fixedHi d) : fixedInt d (recompose d neg M E) = n := by
  obtain ⟨j, hj, hword⟩ := recompose_fixed_rounds hk neg M E
  rw [hn] at hj
  rw [hword, hj.eq_of_int, saturatedInt_of_mem hlo hhi]

end

/-! ### The word in R -/

/-- R's storage view is the word that was written to it (R144). -/
theorem rawView_ofNat {d : Descriptor} {raw : Nat} (h : raw < 2 ^ d.bits) :
    rawView d (BitVec.ofNat 128 raw) = raw := by
  rw [rawView, BitVec.toNat_ofNat, Nat.mod_eq_of_lt (h.trans_le (two_pow_bits_le d)), Nat.mod_eq_of_lt h]

/-- Settles O40: the rounded integer is the one `recompose_fixed_rounds` gives, and R holds its word. -/
theorem fixedRecomposeRoundsOnce : Obligations.FixedRecomposeRoundsOnce := by
  intro dst s hk hv
  obtain ⟨n, ⟨hle, htie⟩, hword⟩ := recompose_fixed_rounds hk (s.ds == 1#1) s.dm.toNat s.de.toInt
  refine ⟨n, _, hle, htie, execRecomp_valid hv s, ?_⟩
  rw [finishFormat_r, ← fixedInt_rawView, rawView_ofNat (recompose_lt hv _ _ _), hword]
  rfl

end Sys2Proof.Machine
end

section
/-! SUPPORT. Recomposition into a floating-point format: the word as a row of the grid and a rounded count of
its units (spec/42_recompose.md R142, R143, R147). -/

namespace Sys2Proof.Machine

/-! ### The rule of R142 -/

theorem pack_eq_reference (d : Descriptor) (neg : Bool) (b t : Nat) :
    pack d neg b t = Reference.pack d neg b t := by
  simp [pack, Reference.pack]

/-- Settles O37: the model splits the rule by its two ranges, and rounds by the same `RNE`. -/
theorem floatRecomposeIsTheRule : Obligations.FloatRecomposeIsTheRule := by
  intro dst neg M E hk _
  simp only [recompose, hk, floatTarget, floatNormal, floatSubnormal, infinityWord, Reference.floatTarget,
    pack_eq_reference, rne_eq_reference, Bool.and_eq_true, Bool.not_eq_true', ge_iff_le, gt_iff_lt]

/-! ### The grid of a float format -/

/-- The distance of neighbouring words whose exponent field is `row`, or is 0 for `row` 1 (R123). -/
def gridUnit (d : Descriptor) (row : Nat) : ℚ := 2 ^ ((row : Int) - d.bias - d.mantBits)

theorem gridUnit_pos (d : Descriptor) (row : Nat) : 0 < gridUnit d row := zpow_pos two_pos _

/-- Going i rows up doubles the unit i times. -/
theorem gridUnit_add (d : Descriptor) (row i : Nat) :
    gridUnit d (row + i) = 2 ^ i * gridUnit d row := by
  rw [gridUnit, gridUnit, ← zpow_natCast, ← zpow_add₀ two_ne_zero]
  congr 1
  push_cast
  ring

/-- The mantissa of a finite float word with its hidden bit (R123). -/
def sigField (d : Descriptor) (raw : Nat) : Nat :=
  mantField d raw + if expField d raw = 0 then 0 else 2 ^ d.mantBits

/-- The row of the grid a finite float word lies in (R123). -/
def rowField (d : Descriptor) (raw : Nat) : Nat := max 1 (expField d raw)

/-- A word whose exponent field is 0 has no hidden bit and lies in the first row (R123). -/
theorem sig_row_of_expField_zero {d : Descriptor} {raw : Nat} (h0 : expField d raw = 0) :
    sigField d raw = mantField d raw ∧ rowField d raw = 1 := by
  simp [sigField, rowField, h0]

/-- Every other word has the hidden bit and lies in the row of its exponent field (R123). -/
theorem sig_row_of_expField_pos {d : Descriptor} {raw : Nat} (h0 : expField d raw ≠ 0) :
    sigField d raw = 2 ^ d.mantBits + mantField d raw ∧ rowField d raw = expField d raw := by
  simp [sigField, rowField, h0, Nat.one_le_iff_ne_zero.mpr h0, Nat.add_comm]

/-- The biased exponent of a magnitude M * 2^E (R142). -/
def biasedExp (d : Descriptor) (M : Nat) (E : Int) : Int := E + bitlen M - 1 + d.bias

/-- The row in which `FloatTarget` rounds a magnitude (R142). -/
def floatRow (d : Descriptor) (M : Nat) (E : Int) : Nat :=
  if M = 0 then 1 else (max 1 (biasedExp d M E)).toNat

/-- The number of units to which `FloatTarget` rounds a magnitude in its row (R142). -/
def floatUnits (d : Descriptor) (M : Nat) (E : Int) : Nat :=
  roundShift M (floatRow d M E - d.bias - d.mantBits - E)

theorem one_le_floatRow (d : Descriptor) (M : Nat) (E : Int) : 1 ≤ floatRow d M E := by
  unfold floatRow
  split_ifs <;> omega

/-- Away from 0 the row is the biased exponent, or 1 below it (R142). -/
theorem floatRow_of_ne_zero (d : Descriptor) {M : Nat} (hM : M ≠ 0) (E : Int) :
    (floatRow d M E : Int) = max 1 (biasedExp d M E) := by
  rw [floatRow, if_neg hM]
  omega

/-- The magnitude is rounded to the nearest number of units, ties to even (R142, R147). -/
theorem nearestEven_floatUnits (d : Descriptor) (M : Nat) (E : Int) :
    NearestEven (floatUnits d M E) ((M : ℚ) * 2 ^ E / gridUnit d (floatRow d M E)) := by
  have hround := nearestEven_roundShift M (floatRow d M E - d.bias - d.mantBits - E)
  rwa [neg_sub, zpow_sub₀ two_ne_zero, ← mul_div_assoc] at hround

/-- A magnitude is between the powers of two of its length (R9). -/
theorem magnitude_bounds {M : Nat} (hM : M ≠ 0) (E : Int) :
    (2 : ℚ) ^ (E + bitlen M - 1) ≤ M * 2 ^ E ∧ (M : ℚ) * 2 ^ E < 2 ^ (E + bitlen M) := by
  have hpos : (0 : ℚ) < 2 ^ E := zpow_pos two_pos E
  have hlen : 1 ≤ bitlen M := by rw [bitlen_pos (Nat.pos_of_ne_zero hM)]; omega
  have hlow : (2 : ℚ) ^ (bitlen M - 1) ≤ M := by
    exact_mod_cast two_pow_bitlen_le (Nat.pos_of_ne_zero hM)
  have hhigh : (M : ℚ) < 2 ^ bitlen M := by exact_mod_cast lt_two_pow_bitlen M
  constructor
  · calc (2 : ℚ) ^ (E + bitlen M - 1) = 2 ^ (bitlen M - 1) * 2 ^ E := by
          rw [← zpow_natCast, ← zpow_add₀ two_ne_zero]; congr 1; omega
      _ ≤ M * 2 ^ E := by gcongr
  · calc (M : ℚ) * 2 ^ E < 2 ^ bitlen M * 2 ^ E := by gcongr
      _ = 2 ^ (E + bitlen M) := by rw [← zpow_natCast, ← zpow_add₀ two_ne_zero, add_comm]

/-- n bits of units of a row are a power of two. -/
theorem two_pow_mul_gridUnit (d : Descriptor) (row n : Nat) :
    2 ^ n * gridUnit d row = 2 ^ ((n : Int) + row - d.bias - d.mantBits) := by
  rw [gridUnit, ← zpow_natCast, ← zpow_add₀ two_ne_zero]
  congr 1
  ring

/-- A magnitude whose biased exponent is below n + row - m has less than 2^n units of the row. -/
theorem magnitude_lt {d : Descriptor} {M : Nat} {E : Int} {row n : Nat}
    (h : M ≠ 0 → biasedExp d M E < n + row - d.mantBits) :
    (M : ℚ) * 2 ^ E < 2 ^ n * gridUnit d row := by
  by_cases hM : M = 0
  · have := gridUnit_pos d row
    simp only [hM, Nat.cast_zero, zero_mul]
    positivity
  · have hexp := h hM
    refine (magnitude_bounds hM E).2.trans_le ?_
    rw [two_pow_mul_gridUnit]
    exact zpow_le_zpow_right₀ one_le_two (by unfold biasedExp at hexp; omega)

/-- A magnitude whose biased exponent is at least n + row - m has at least 2^n units of the row. -/
theorem le_magnitude {d : Descriptor} {M : Nat} {E : Int} {row n : Nat} (hM : M ≠ 0)
    (h : (n : Int) + row - d.mantBits ≤ biasedExp d M E) :
    2 ^ n * gridUnit d row ≤ (M : ℚ) * 2 ^ E := by
  refine le_trans ?_ (magnitude_bounds hM E).1
  rw [two_pow_mul_gridUnit]
  exact zpow_le_zpow_right₀ one_le_two (by unfold biasedExp at h; omega)

/-- The rounding of less than 2^n units is at most 2^n units. -/
theorem floatUnits_le_two_pow {d : Descriptor} {M n : Nat} {E : Int}
    (h : (M : ℚ) * 2 ^ E < 2 ^ n * gridUnit d (floatRow d M E)) : floatUnits d M E ≤ 2 ^ n := by
  rw [← div_lt_iff₀ (gridUnit_pos d _)] at h
  exact_mod_cast (nearestEven_floatUnits d M E).le_of_le (j := 2 ^ n) (by exact_mod_cast h.le)

/-- The rounded magnitude has at most m + 1 bits, or is the power of two above (R142). -/
theorem floatUnits_le (d : Descriptor) (M : Nat) (E : Int) : floatUnits d M E ≤ 2 ^ (d.mantBits + 1) :=
  floatUnits_le_two_pow (magnitude_lt fun hM => by have := floatRow_of_ne_zero d hM E; omega)

/-- The rounding of at least 2^m units is at least 2^m units. -/
theorem two_pow_le_floatUnits {d : Descriptor} {M : Nat} {E : Int}
    (h : 2 ^ d.mantBits * gridUnit d (floatRow d M E) ≤ (M : ℚ) * 2 ^ E) :
    2 ^ d.mantBits ≤ floatUnits d M E := by
  rw [← le_div_iff₀ (gridUnit_pos d _)] at h
  exact_mod_cast (nearestEven_floatUnits d M E).ge_of_ge (j := 2 ^ d.mantBits) (by exact_mod_cast h)

/-- Above the first row a magnitude has at least 2^m units, and so has its rounding (R142). -/
theorem floatRow_eq_one_or (d : Descriptor) (M : Nat) (E : Int) :
    floatRow d M E = 1 ∨ (2 ^ d.mantBits * gridUnit d (floatRow d M E) ≤ (M : ℚ) * 2 ^ E ∧
      2 ^ d.mantBits ≤ floatUnits d M E) := by
  by_cases hrow : floatRow d M E = 1
  · exact .inl hrow
  · have hM : M ≠ 0 := fun hM => hrow (by rw [floatRow, if_pos hM])
    have hle : 2 ^ d.mantBits * gridUnit d (floatRow d M E) ≤ (M : ℚ) * 2 ^ E :=
      le_magnitude hM (by have := floatRow_of_ne_zero d hM E; omega)
    exact .inr ⟨hle, two_pow_le_floatUnits hle⟩

/-- Below the overflow the packed row and units do not pass Infinity (R142). -/
theorem row_add_units_le {d : Descriptor} (hpos : 0 < d.emax) {M : Nat} {E : Int}
    (h : M ≠ 0 → biasedExp d M E < d.emax) :
    (floatRow d M E - 1) * 2 ^ d.mantBits + floatUnits d M E ≤ d.emax * 2 ^ d.mantBits := by
  have hunits := floatUnits_le d M E
  have hone := one_le_floatRow d M E
  obtain hlow | hlast := lt_or_ge (floatRow d M E) d.emax
  · calc (floatRow d M E - 1) * 2 ^ d.mantBits + floatUnits d M E
        ≤ (floatRow d M E - 1) * 2 ^ d.mantBits + 2 * 2 ^ d.mantBits := by rw [← Nat.pow_succ']; omega
      _ = (floatRow d M E + 1) * 2 ^ d.mantBits := by rw [← Nat.add_mul]; congr 1; omega
      _ ≤ d.emax * 2 ^ d.mantBits := Nat.mul_le_mul_right _ hlow
  · have hrow : floatRow d M E = 1 := by
      by_cases hM : M = 0
      · rw [floatRow, if_pos hM]
      · have := h hM
        have := floatRow_of_ne_zero d hM E
        omega
    have hle : floatUnits d M E ≤ 2 ^ d.mantBits :=
      floatUnits_le_two_pow (magnitude_lt fun hM => by have := h hM; omega)
    rw [hrow, Nat.sub_self, Nat.zero_mul, Nat.zero_add]
    exact hle.trans (Nat.le_mul_of_pos_left _ hpos)

/-! ### `FloatTarget` packs the row and the units -/

/-- A full mantissa carries into the exponent field (R143). -/
theorem pack_carry (d : Descriptor) (neg : Bool) (b t : Nat) :
    pack d neg b (2 ^ d.mantBits + t) = pack d neg (b + 1) t := by
  unfold pack
  rw [Nat.succ_mul]
  omega

/-- A sign that the format can hold does not take the branch of negative values into unsigned (R142). -/
theorem negativeUnsigned_eq_false {d : Descriptor} {neg : Bool} (hs : neg = true → d.signed = true) :
    (neg && !d.signed) = false := by
  cases neg with
  | false => rfl
  | true => rw [hs rfl]; rfl

/-- A biased exponent from emax on gives the Infinity of the sign (R142). -/
theorem floatTarget_overflow {d : Descriptor} {neg : Bool} (hs : neg = true → d.signed = true) {M : Nat}
    {E : Int} (hM : M ≠ 0) (hb : (d.emax : Int) ≤ biasedExp d M E) :
    floatTarget d neg M E = infinityWord d neg := by
  rw [floatTarget, negativeUnsigned_eq_false hs, if_neg Bool.false_ne_true, if_neg hM]
  exact if_pos hb

/-- The normal range of `FloatTarget`: the row is the biased exponent (R142). -/
theorem floatNormal_eq_pack {d : Descriptor} (neg : Bool) {M : Nat} (hM : M ≠ 0) {E : Int}
    (hone : 1 ≤ biasedExp d M E) (hb : biasedExp d M E < d.emax) :
    floatNormal d neg M (biasedExp d M E) = pack d neg (floatRow d M E - 1) (floatUnits d M E) := by
  have hrow : (floatRow d M E : Int) = biasedExp d M E := by
    rw [floatRow_of_ne_zero d hM, max_eq_right hone]
  have hunits : floatUnits d M E = if d.mantBits + 1 < bitlen M then rne M (bitlen M - d.mantBits - 1)
      else M * 2 ^ (d.mantBits + 1 - bitlen M) := by
    rw [Nat.sub_sub, ← roundShift_sub, floatUnits, hrow, biasedExp]
    congr 1
    push_cast
    ring
  have hmin : 2 ^ d.mantBits ≤ floatUnits d M E := two_pow_le_floatUnits (le_magnitude hM (by omega))
  obtain ⟨t, ht⟩ := Nat.exists_eq_add_of_le hmin
  have hsucc : floatRow d M E - 1 + 1 = (biasedExp d M E).toNat := by omega
  rw [floatNormal, ← hunits, ht, pack_carry, hsucc, Nat.add_sub_cancel_left]
  by_cases hcarry : 2 ^ d.mantBits + t = 2 ^ (d.mantBits + 1)
  · obtain rfl : t = 2 ^ d.mantBits + 0 := by rw [Nat.pow_succ] at hcarry; omega
    rw [if_pos hcarry, pack_carry, infinityWord]
    split_ifs <;> congr 1 <;> omega
  · rw [if_neg hcarry]

/-- The subnormal range of `FloatTarget`: the row is the first one (R142). -/
theorem floatSubnormal_eq_pack {d : Descriptor} (neg : Bool) {M : Nat} (hM : M ≠ 0) {E : Int}
    (hlow : biasedExp d M E < 1) :
    floatSubnormal d neg M E = pack d neg (floatRow d M E - 1) (floatUnits d M E) := by
  have hrow : floatRow d M E = 1 := by
    have := floatRow_of_ne_zero d hM E
    omega
  have hunits : floatUnits d M E = roundShift M (1 - d.bias - d.mantBits - E) := by
    rw [floatUnits, hrow, Nat.cast_one]
  rw [floatSubnormal, hrow, Nat.sub_self, ← roundShift, ← hunits]
  split_ifs with hpromote
  · rw [hpromote, ← pack_carry, Nat.add_zero]
  · rfl

/-- Below the overflow, both ranges of `FloatTarget` pack the row and the units, carries and promotions
included (R142). -/
theorem floatTarget_eq_pack {d : Descriptor} {neg : Bool} (hs : neg = true → d.signed = true) {M : Nat}
    {E : Int} (hb : M ≠ 0 → biasedExp d M E < d.emax) :
    floatTarget d neg M E = pack d neg (floatRow d M E - 1) (floatUnits d M E) := by
  rw [floatTarget, negativeUnsigned_eq_false hs, if_neg Bool.false_ne_true]
  by_cases hM : M = 0
  · rw [if_pos hM, floatUnits, floatRow, if_pos hM, hM, zero_roundShift]
  rw [if_neg hM]
  dsimp only
  rw [← biasedExp, if_neg (by have := hb hM; omega)]
  split_ifs with hnormal
  · exact floatNormal_eq_pack neg hM hnormal (hb hM)
  · exact floatSubnormal_eq_pack neg hM (by omega)

/-! ### The overflow threshold (R147) -/

theorem infinityWord_eq_pack_iff {d : Descriptor} (b t : Nat) :
    pack d false b t = infinityWord d false ↔ b * 2 ^ d.mantBits + t = d.emax * 2 ^ d.mantBits := by
  simp [infinityWord, pack]

/-- In the row below Infinity, the magnitude goes there from half a unit below the first even number of units
that makes it up (R147). -/
theorem overflow_iff_of_last_row {d : Descriptor} (hpos : 0 < d.emax) {M : Nat} {E : Int}
    (hb : M ≠ 0 → biasedExp d M E < d.emax) {top : Nat} (heven : top % 2 = 0)
    (htop : (floatRow d M E - 1) * 2 ^ d.mantBits + top = d.emax * 2 ^ d.mantBits) :
    floatTarget d false M E = infinityWord d false ↔
      ((top : ℚ) - 1 / 2) * gridUnit d (floatRow d M E) ≤ M * 2 ^ E := by
  have hle := row_add_units_le hpos hb
  rw [floatTarget_eq_pack (by simp) hb, infinityWord_eq_pack_iff, ← le_div_iff₀ (gridUnit_pos d _)]
  calc _ ↔ (top : Int) ≤ floatUnits d M E := by omega
    _ ↔ _ := by exact_mod_cast (nearestEven_floatUnits d M E).even_le_iff (top := top) (by omega)

/-- The last row of finite words (R70). -/
def lastRow (d : Descriptor) : Nat := max 1 (d.emax - 1)

/-- The units of the last row that would make up Infinity: with one exponent bit all finite words are
subnormal (R70, R147). -/
def topUnits (d : Descriptor) : Nat := if d.expBits = 1 then 2 ^ d.mantBits else 2 ^ (d.mantBits + 1)

section
variable {d : Descriptor} (hk : d.kind = .float) (hv : d.valid = true)
include hk hv

theorem lastRow_cases :
    (d.expBits = 1 ∧ d.emax = 1 ∧ lastRow d = 1 ∧ topUnits d = 2 ^ d.mantBits) ∨
    (d.expBits ≠ 1 ∧ 3 ≤ d.emax ∧ lastRow d + 1 = d.emax ∧ topUnits d = 2 ^ (d.mantBits + 1)) := by
  obtain ⟨-, -, he⟩ := float_layout hk hv
  by_cases hone : d.expBits = 1
  · exact .inl ⟨hone, by simp [Descriptor.emax, hone], by simp [lastRow, Descriptor.emax, hone],
      if_pos hone⟩
  · have hmax : 3 ≤ d.emax := by
      have : 2 ^ 2 ≤ 2 ^ d.expBits := Nat.pow_le_pow_right (by omega) (by omega)
      unfold Descriptor.emax
      omega
    exact .inr ⟨hone, hmax, by unfold lastRow; omega, if_neg hone⟩

theorem topUnits_even : topUnits d % 2 = 0 := by
  obtain ⟨-, hm, -⟩ := float_layout hk hv
  obtain ⟨n, hn⟩ := Nat.exists_eq_add_of_le' hm
  unfold topUnits
  split_ifs <;> simp [hn, Nat.pow_succ]

theorem lastRow_add_topUnits :
    (lastRow d - 1) * 2 ^ d.mantBits + topUnits d = d.emax * 2 ^ d.mantBits := by
  obtain ⟨-, hmax, hrow, htop⟩ | ⟨-, hmax, hrow, htop⟩ := lastRow_cases hk hv
  · simp [hmax, hrow, htop]
  · rw [htop, Nat.pow_succ', ← Nat.add_mul]
    congr 1
    omega

/-- A magnitude beyond the exponents of the format is at least the least that would make up Infinity. -/
theorem topUnits_le_of_overflow {M : Nat} (hM : M ≠ 0) {E : Int} (hb : (d.emax : Int) ≤ biasedExp d M E) :
    topUnits d * gridUnit d (lastRow d) ≤ (M : ℚ) * 2 ^ E := by
  obtain ⟨-, hmax, hrow, htop⟩ | ⟨-, hmax, hrow, htop⟩ := lastRow_cases hk hv <;>
    rw [htop, Nat.cast_pow, Nat.cast_two] <;> exact le_magnitude hM (by omega)

/-- A magnitude of a row before the last is rounded within the finite words, and lies below the threshold. -/
theorem floatTarget_ne_infinity_of_row_lt {M : Nat} {E : Int} (hrow : floatRow d M E < lastRow d)
    (hb : M ≠ 0 → biasedExp d M E < d.emax) :
    floatTarget d false M E ≠ infinityWord d false ∧
      (M : ℚ) * 2 ^ E < (topUnits d - 1 / 2) * gridUnit d (lastRow d) := by
  have hone := one_le_floatRow d M E
  have hunits := floatUnits_le d M E
  obtain ⟨-, -, hlast, -⟩ | ⟨-, hmax, hlast, htop⟩ := lastRow_cases hk hv
  · omega
  constructor
  · rw [floatTarget_eq_pack (by simp) hb, Ne, infinityWord_eq_pack_iff]
    have hpow := Nat.two_pow_pos d.mantBits
    have hnext : (floatRow d M E - 1 + 3) * 2 ^ d.mantBits ≤ d.emax * 2 ^ d.mantBits :=
      Nat.mul_le_mul_right _ (by omega)
    rw [Nat.add_mul] at hnext
    rw [Nat.pow_succ] at hunits
    omega
  · refine (magnitude_lt (d := d) (row := lastRow d) (n := d.mantBits) fun hM => ?_).trans_le ?_
    · have := floatRow_of_ne_zero d hM E
      omega
    · have hpow : (1 : ℚ) ≤ 2 ^ d.mantBits := one_le_pow₀ one_le_two
      refine mul_le_mul_of_nonneg_right ?_ (gridUnit_pos d _).le
      rw [htop, Nat.cast_pow, Nat.cast_two, pow_succ]
      linarith

/-- A positive magnitude goes to Infinity from half a unit of the last row below the number that would make up
Infinity (R147). -/
theorem floatTarget_infinity_iff (M : Nat) (E : Int) :
    floatTarget d false M E = infinityWord d false ↔
      (topUnits d - 1 / 2) * gridUnit d (lastRow d) ≤ (M : ℚ) * 2 ^ E := by
  by_cases hover : M ≠ 0 ∧ (d.emax : Int) ≤ biasedExp d M E
  · obtain ⟨hM, hb⟩ := hover
    have hle := topUnits_le_of_overflow hk hv hM hb
    have hunit := gridUnit_pos d (lastRow d)
    refine iff_of_true (floatTarget_overflow (by simp) hM hb) ?_
    linarith
  have hb : M ≠ 0 → biasedExp d M E < d.emax := fun hM => not_le.mp fun hb => hover ⟨hM, hb⟩
  obtain hlow | hlast := lt_or_ge (floatRow d M E) (lastRow d)
  · obtain ⟨hne, hlt⟩ := floatTarget_ne_infinity_of_row_lt hk hv hlow hb
    exact iff_of_false hne hlt.not_ge
  · have hrow : floatRow d M E = lastRow d := by
      have hone : 1 ≤ lastRow d := le_max_left ..
      have hlast' : d.emax - 1 ≤ lastRow d := le_max_right ..
      by_cases hM : M = 0
      · rw [floatRow, if_pos hM] at hlast ⊢
        omega
      · have := floatRow_of_ne_zero d hM E
        have := hb hM
        omega
    rw [← hrow]
    exact overflow_iff_of_last_row (emax_pos hk hv) hb (topUnits_even hk hv)
      (hrow ▸ lastRow_add_topUnits hk hv)

end

/-- Settles O42: the two forms of the threshold are those of the last row. -/
theorem floatOverflowThreshold : Obligations.FloatOverflowThreshold := by
  intro dst M E hk hv
  rw [recompose, hk]
  refine (floatTarget_infinity_iff hk hv M E).trans ?_
  obtain ⟨he, -, hrow, htop⟩ | ⟨he, hmax, hrow, htop⟩ := lastRow_cases hk hv
  · have hunit : gridUnit dst 1 = 2 ^ (1 - (dst.mantBits : Int)) := by
      simp [gridUnit, Descriptor.bias, he]
    rw [if_pos he, hrow, htop, hunit, Nat.cast_pow, Nat.cast_two]
  · have hcast : (lastRow dst : Int) = dst.emax - 1 := by omega
    rw [if_neg he, htop, gridUnit, hcast, Nat.cast_pow, Nat.cast_two]

/-! ### The fields of a packed word (R121, R143) -/

theorem signed_of_signField {d : Descriptor} {raw : Nat} (h : signField d raw = true) : d.signed = true := by
  rw [signField, Bool.and_eq_true] at h
  exact h.1

section
variable {d : Descriptor} (hk : d.kind = .float) (hv : d.valid = true)
include hk hv

/-- A packed word is its sign above the exponent and mantissa fields (R143). -/
theorem pack_eq (neg : Bool) (b t : Nat) (hs : neg = true → d.signed = true) :
    pack d neg b t = 2 ^ d.mantBits * (2 ^ d.expBits * neg.toNat + b) + t := by
  obtain ⟨hlen, -, -⟩ := float_layout hk hv
  have hsign : (if d.signed && neg then 2 ^ (d.bits - 1) else 0) =
      2 ^ d.mantBits * (2 ^ d.expBits * neg.toNat) := by
    cases neg with
    | false => simp
    | true =>
      have hbits : d.bits - 1 = d.mantBits + d.expBits := by
        simp only [Descriptor.signBits, hs rfl, if_true] at hlen
        omega
      simp [hs rfl, hbits, Nat.pow_add]
  rw [pack, hsign, Nat.mul_add, Nat.mul_comm b]

theorem mantField_pack {neg : Bool} (hs : neg = true → d.signed = true) (b t : Nat) :
    mantField d (pack d neg b t) = t % 2 ^ d.mantBits := by
  rw [pack_eq hk hv neg b t hs, mantField, Nat.mul_add_mod]

/-- The exponent field takes the carry out of the mantissa. -/
theorem expField_pack {neg : Bool} (hs : neg = true → d.signed = true) {b t : Nat}
    (hfit : b + t / 2 ^ d.mantBits < 2 ^ d.expBits) :
    expField d (pack d neg b t) = b + t / 2 ^ d.mantBits := by
  rw [pack_eq hk hv neg b t hs, expField, Nat.mul_add_div (Nat.two_pow_pos _), Nat.add_assoc,
    Nat.mul_add_mod, Nat.mod_eq_of_lt hfit]

theorem signField_pack {neg : Bool} (hs : neg = true → d.signed = true) {b t : Nat}
    (hfit : b + t / 2 ^ d.mantBits < 2 ^ d.expBits) : signField d (pack d neg b t) = neg := by
  cases hsigned : d.signed with
  | false => cases neg <;> simp_all [signField]
  | true =>
    obtain ⟨hlen, -, -⟩ := float_layout hk hv
    have hbits : d.bits - 1 = d.mantBits + d.expBits := by
      simp only [Descriptor.signBits, hsigned, if_true] at hlen
      omega
    rw [signField, hsigned, pack_eq hk hv neg b t hs, hbits, Nat.pow_add, ← Nat.div_div_eq_div_mul,
      Nat.mul_add_div (Nat.two_pow_pos _), Nat.add_assoc, Nat.mul_add_div (Nat.two_pow_pos _),
      Nat.div_eq_of_lt hfit]
    cases neg <;> rfl

/-- What a word of W bits holds above its exponent field is its sign (R121). -/
theorem toNat_signField {raw : Nat} (h : raw < 2 ^ d.bits) :
    (signField d raw).toNat = raw / 2 ^ d.mantBits / 2 ^ d.expBits := by
  obtain ⟨hlen, -, -⟩ := float_layout hk hv
  rw [Nat.div_div_eq_div_mul, ← Nat.pow_add, signField]
  cases hs : d.signed with
  | false =>
    have hbits : d.bits = d.mantBits + d.expBits := by
      simp [Descriptor.signBits, hs] at hlen
      omega
    rw [← hbits, Nat.div_eq_of_lt h]
    rfl
  | true =>
    have hbits : d.bits = d.mantBits + d.expBits + 1 := by
      simp only [Descriptor.signBits, hs, if_true] at hlen
      omega
    rw [hbits, Nat.pow_succ'] at h
    have htop : raw / 2 ^ (d.mantBits + d.expBits) < 2 := Nat.div_lt_of_lt_mul (Nat.mul_comm .. ▸ h)
    rw [hbits, Nat.add_sub_cancel, Bool.true_and]
    interval_cases raw / 2 ^ (d.mantBits + d.expBits) <;> rfl

/-- A word of W bits is packed from its fields (R121, R143). -/
theorem pack_fields {raw : Nat} (h : raw < 2 ^ d.bits) :
    pack d (signField d raw) (expField d raw) (mantField d raw) = raw := by
  rw [pack_eq hk hv _ _ _ signed_of_signField, toNat_signField hk hv h, expField, Nat.div_add_mod, mantField,
    Nat.div_add_mod]

/-! ### The number of a finite word -/

omit hv in
/-- A finite word decomposes into its sign, its mantissa with the hidden bit and its row's unit (R125). -/
theorem decompose_finite {raw : Nat} (hfin : ¬ Reference.NonFinite (classOf d raw)) :
    (decompose d raw).neg = signField d raw ∧ (decompose d raw).mag = sigField d raw ∧
      (decompose d raw).exp = rowField d raw - d.bias - d.mantBits := by
  by_cases h0 : expField d raw = 0
  · rw [decompose_of_expField_zero hk h0]
    simp [sigField, rowField, h0]
  · rw [decompose_normal hk h0 fun h1 => hfin (classOf_nonFinite hk h0 h1)]
    simp [sigField, rowField, h0, Nat.one_le_iff_ne_zero.mpr h0]

/-- The number of a finite word in units of its row (R123). -/
theorem wordValue_eq {x : Word128} (hfin : ¬ Reference.NonFinite (Reference.wordClass d x)) :
    Reference.wordValue d x = (if signField d (rawView d x) then (-1 : ℚ) else 1) *
      (sigField d (rawView d x) * gridUnit d (rowField d (rawView d x))) := by
  obtain ⟨hneg, hmag, hexp⟩ := decompose_finite hk ((classOf_rawView hv x).symm ▸ hfin)
  rw [← exactValue_decompose hv hfin, hneg, hmag, hexp, Reference.exactValue, mul_assoc]
  rfl

/-- A word packed of a row and at most 2^(m+1) of its units denotes that many units, whatever carries into the
exponent field (R123, R142, R143). -/
theorem sigField_pack {neg : Bool} (hs : neg = true → d.signed = true) {row units : Nat} (hone : 1 ≤ row)
    (hmin : row = 1 ∨ 2 ^ d.mantBits ≤ units) (hmax : units ≤ 2 ^ (d.mantBits + 1))
    (hfit : row - 1 + units / 2 ^ d.mantBits < 2 ^ d.expBits) :
    (sigField d (pack d neg (row - 1) units) : ℚ) *
      gridUnit d (rowField d (pack d neg (row - 1) units)) = units * gridUnit d row := by
  rw [sigField, rowField, mantField_pack hk hv hs, expField_pack hk hv hs hfit]
  have hpos := Nat.two_pow_pos d.mantBits
  rw [Nat.pow_succ] at hmax
  obtain hsub | hnormal | hcarry : units < 2 ^ d.mantBits ∨
      (2 ^ d.mantBits ≤ units ∧ units < 2 * 2 ^ d.mantBits) ∨ units = 2 ^ d.mantBits * 2 := by omega
  · obtain rfl : row = 1 := by omega
    simp [Nat.div_eq_of_lt hsub, Nat.mod_eq_of_lt hsub]
  · obtain ⟨t, rfl⟩ := Nat.exists_eq_add_of_le hnormal.1
    have ht : t < 2 ^ d.mantBits := by omega
    have hrow : row - 1 + 1 = row := by omega
    have hne : row ≠ 0 := by omega
    simp [Nat.div_eq_of_lt ht, Nat.mod_eq_of_lt ht, hrow, hone, hne, add_comm]
  · have hrow : row - 1 + 2 = row + 1 := by omega
    simp [hcarry, hrow, gridUnit_add]
    ring

/-! ### The nearest word (R147) -/

/-- A finite word is a whole number of units of a row, or below the row's normal words (R123). -/
theorem wordValue_row_cases {x : Word128} (hfin : ¬ Reference.NonFinite (Reference.wordClass d x))
    (row : Nat) :
    (∃ j : Int, Reference.wordValue d x = j * gridUnit d row) ∨
    (row ≠ 1 ∧ |Reference.wordValue d x| < 2 ^ d.mantBits * gridUnit d row) := by
  rw [wordValue_eq hk hv hfin]
  obtain hhigh | hlow := le_or_gt row (rowField d (rawView d x))
  · obtain ⟨i, hi⟩ := Nat.exists_eq_add_of_le hhigh
    refine .inl ⟨(if signField d (rawView d x) then -1 else 1) * (sigField d (rawView d x) * 2 ^ i), ?_⟩
    rw [hi, gridUnit_add]
    push_cast
    ring
  · have hfield : 1 ≤ rowField d (rawView d x) := le_max_left ..
    have hsig : (sigField d (rawView d x) : ℚ) < 2 * 2 ^ d.mantBits := by
      have hmant := mantField_lt d (rawView d x)
      have hle : sigField d (rawView d x) < 2 * 2 ^ d.mantBits := by
        unfold sigField
        split_ifs <;> omega
      exact_mod_cast hle
    have hunit : 2 * gridUnit d (rowField d (rawView d x)) ≤ gridUnit d row := by
      have hsucc := gridUnit_add d (rowField d (rawView d x)) 1
      rw [pow_one] at hsucc
      rw [← hsucc]
      exact zpow_le_zpow_right₀ one_le_two (by omega)
    have hpos := gridUnit_pos d (rowField d (rawView d x))
    have hsign : |if signField d (rawView d x) then (-1 : ℚ) else 1| = 1 := by split_ifs <;> simp
    refine .inr ⟨by omega, ?_⟩
    rw [abs_mul, hsign, one_mul, abs_of_nonneg (by positivity)]
    calc _ < 2 * 2 ^ d.mantBits * gridUnit d (rowField d (rawView d x)) := by gcongr
      _ = 2 ^ d.mantBits * (2 * gridUnit d (rowField d (rawView d x))) := by ring
      _ ≤ 2 ^ d.mantBits * gridUnit d row := by gcongr

end

theorem abs_exactValue (neg : Bool) (M : Nat) (E : Int) :
    |Reference.exactValue neg M E| = (M : ℚ) * 2 ^ E := by
  have hpos : (0 : ℚ) ≤ M * 2 ^ E := by positivity
  cases neg <;> simp [Reference.exactValue, abs_of_nonneg hpos]

section
variable {d : Descriptor} (hk : d.kind = .float) (hv : d.valid = true)
include hk hv

/-- The largest exponent field makes an Infinity or a NaN (R73, R74, R122). -/
theorem classOf_pack_emax {neg : Bool} (hs : neg = true → d.signed = true) {t : Nat}
    (ht : t < 2 ^ d.mantBits) :
    classOf d (pack d neg d.emax t) = if t = 0 then .infinity else .nan := by
  have hpos := emax_pos hk hv
  have hfit : d.emax + t / 2 ^ d.mantBits < 2 ^ d.expBits := by
    have := Nat.two_pow_pos d.expBits
    rw [Nat.div_eq_of_lt ht, Descriptor.emax]
    omega
  have hexp : expField d (pack d neg d.emax t) = d.emax := by
    rw [expField_pack hk hv hs hfit, Nat.div_eq_of_lt ht, Nat.add_zero]
  have hmant : mantField d (pack d neg d.emax t) = t := by
    rw [mantField_pack hk hv hs, Nat.mod_eq_of_lt ht]
  simp [classOf, hk, floatClass, hexp, hmant, hpos.ne']

theorem classOf_infinityWord {neg : Bool} (hs : neg = true → d.signed = true) :
    classOf d (infinityWord d neg) = .infinity :=
  classOf_pack_emax hk hv hs (Nat.two_pow_pos _)

/-- A result below the overflow fits the exponent field. -/
theorem row_add_carry_lt {M : Nat} {E : Int} (hb : M ≠ 0 → biasedExp d M E < d.emax) :
    floatRow d M E - 1 + floatUnits d M E / 2 ^ d.mantBits < 2 ^ d.expBits := by
  have hle := row_add_units_le (emax_pos hk hv) hb
  have hpow := Nat.two_pow_pos d.expBits
  have hdiv := Nat.div_le_div_right (c := 2 ^ d.mantBits) hle
  rw [Nat.mul_comm, Nat.mul_add_div (Nat.two_pow_pos _), Nat.mul_div_cancel _ (Nat.two_pow_pos _)] at hdiv
  unfold Descriptor.emax at hdiv
  omega

/-- A finite result denotes the signed rounding in units of the value's row, and its mantissa field is even
where that is (R142, R147). -/
theorem floatTarget_value {neg : Bool} (hs : neg = true → d.signed = true) {M : Nat} {E : Int}
    (hb : M ≠ 0 → biasedExp d M E < d.emax) {x : Word128} (hx : rawView d x = floatTarget d neg M E)
    (hfin : ¬ Reference.NonFinite (Reference.wordClass d x)) :
    ∃ n : Int, NearestEven n (Reference.exactValue neg M E / gridUnit d (floatRow d M E)) ∧
      Reference.wordValue d x = n * gridUnit d (floatRow d M E) ∧
      (n % 2 = 0 → Reference.floatMant d x % 2 = 0) := by
  have hfit := row_add_carry_lt hk hv hb
  have hround := (nearestEven_floatUnits d M E).signed neg
  rw [← mul_div_assoc, ← mul_assoc] at hround
  rw [floatTarget_eq_pack hs hb] at hx
  refine ⟨_, hround, ?_, fun heven => ?_⟩
  · rw [wordValue_eq hk hv hfin, hx, signField_pack hk hv hs hfit,
      sigField_pack hk hv hs (one_le_floatRow d M E) ((floatRow_eq_one_or d M E).imp_right And.right)
        (floatUnits_le d M E) hfit, ← mul_assoc]
    cases neg <;> simp
  · obtain ⟨-, hm, -⟩ := float_layout hk hv
    rw [← mantField_rawView hk hv, hx, mantField_pack hk hv hs,
      Nat.mod_mod_of_dvd _ (dvd_pow_self 2 (by omega))]
    cases neg with
    | false =>
      simp only [Bool.false_eq_true, if_false] at heven
      omega
    | true =>
      simp only [if_true] at heven
      omega

end

/-- Settles O41: the result is the rounding in the row of the value, whose multiples are all finite words of
that row or above; a word below it is farther. -/
theorem floatRecomposeRoundsOnce : Obligations.FloatRecomposeRoundsOnce := by
  intro dst s t hk hv hsign hexec hfin v x hx
  obtain rfl : _ = t := Host.Outcome.next.inj ((execRecomp_valid hv s).symm.trans hexec)
  have hs : (s.ds == 1#1) = true → dst.signed = true := fun hneg => hsign.resolve_left fun h0 => by
    simp [h0] at hneg
  have hraw := rawView_ofNat (recompose_lt hv (s.ds == 1#1) s.dm.toNat s.de.toInt)
  have htarget : recompose dst (s.ds == 1#1) s.dm.toNat s.de.toInt =
      floatTarget dst (s.ds == 1#1) s.dm.toNat s.de.toInt := by rw [recompose, hk]
  rw [finishFormat_r] at hfin ⊢
  have hb : s.dm.toNat ≠ 0 → biasedExp dst s.dm.toNat s.de.toInt < dst.emax := fun hM => by
    by_contra hover
    rw [← classOf_rawView hv, hraw, htarget, floatTarget_overflow hs hM (not_lt.mp hover)] at hfin
    exact hfin (.inl (classOf_infinityWord hk hv hs))
  obtain ⟨n, hn, hvalue, heven⟩ := floatTarget_value hk hv hs hb (hraw.trans htarget) hfin
  have hunit := gridUnit_pos dst (floatRow dst s.dm.toNat s.de.toInt)
  rw [hvalue]
  obtain ⟨j, hj⟩ | ⟨hrow, hlow⟩ := wordValue_row_cases hk hv hx (floatRow dst s.dm.toNat s.de.toInt)
  · rw [hj]
    obtain ⟨hle, htie⟩ := hn.nearest_multiple hunit j
    exact ⟨hle, fun hne heq => heven (htie hne heq)⟩
  · have hmin : ((2 ^ dst.mantBits : Nat) : ℚ) * gridUnit dst (floatRow dst s.dm.toNat s.de.toInt) ≤ |v| := by
      rw [abs_exactValue]
      exact_mod_cast ((floatRow_eq_one_or dst _ _).resolve_left hrow).1
    have hlt := hn.lt_of_abs_lt hunit hmin (by exact_mod_cast hlow)
    exact ⟨hlt.le, fun _ heq => absurd heq hlt.ne⟩

end Sys2Proof.Machine
end

section
/-! SUPPORT. What RECOMP and CVT leave in the state, and the conversions that lose nothing (spec/42_recompose.md
R144 to R148). -/

namespace Sys2Proof.Machine

/-! ### RECOMP -/

/-- The model's recomposer is the spec's (R140). -/
theorem recompose_eq_reference {d : Descriptor} (hv : d.valid = true) (neg : Bool) (M : Nat) (E : Int) :
    recompose d neg M E = Reference.recompose d neg M E := by
  cases hk : d.kind with
  | fixed => rw [fixedRecomposeIsTheRule d neg M E hk hv, Reference.recompose, hk]
  | float => rw [floatRecomposeIsTheRule d neg M E hk hv, Reference.recompose, hk]

/-- A result of W bits stands in R as it is, and its class in RCLASS (R144, R148). -/
theorem finishFormat_eq {d : Descriptor} (hv : d.valid = true) {raw : Nat} (h : raw < 2 ^ d.bits) (s : State)
    (c : NumClass) :
    (BitVec.ofNat 128 raw).toNat = raw ∧
    finishFormat s c d raw = { s with
      r := BitVec.ofNat 128 raw
      status := mkStatus .none c (Reference.wordClass d (BitVec.ofNat 128 raw)) } := by
  constructor
  · rw [BitVec.toNat_ofNat, Nat.mod_eq_of_lt (h.trans_le (two_pow_bits_le d))]
  · rw [← classOf_rawView hv, rawView_ofNat h]
    rfl

/-- Settles O38: the recomposed word fits W bits, so R and RCLASS hold it and its class. -/
theorem recompWritesTheRecomposedWord : Obligations.RecompWritesTheRecomposedWord := by
  intro dst s hv
  obtain ⟨hr, hfinish⟩ := finishFormat_eq hv (recompose_lt hv (s.ds == 1#1) s.dm.toNat s.de.toInt) s .none
  refine ⟨_, hr.trans (recompose_eq_reference hv _ _ _), ?_⟩
  exact (execRecomp_valid hv s).trans (congrArg _ hfinish)

/-- The word 0 is a zero in every format (R120, R122). -/
theorem classOf_zero (d : Descriptor) : classOf d 0 = .zero := by
  cases hk : d.kind with
  | fixed => simp [classOf, hk, fixedClass, fixedInt, signedOf]
  | float => simp [classOf, hk, floatClass, expField, mantField]

/-- A negative value is clamped to 0 by an unsigned fixed-point format and is +0 in an unsigned float one
(R141, R142). -/
theorem recompose_negative_unsigned {d : Descriptor} (hs : d.signed = false) (M : Nat) (E : Int) :
    recompose d true M E = 0 := by
  cases hk : d.kind with
  | float => simp [recompose, hk, floatTarget, hs]
  | fixed =>
    rw [recompose, hk, fixTarget_eq_saturate, saturate_eq]
    have hzero : saturatedInt d (-(roundShift M (-(E + d.fracBits)) : Int)) = 0 := by
      obtain ⟨hpos, htwice, ⟨hs', -⟩ | ⟨-, hlo, hhi⟩⟩ := fixedLo_fixedHi_cases d
      · simp [hs] at hs'
      · rw [saturatedInt, hlo, hhi]
        omega
    rw [if_pos rfl, hzero]
    simp

/-- Settles O43: the recomposed word is 0, whose class is ZERO. -/
theorem negativeIntoUnsignedGivesZero : Obligations.NegativeIntoUnsignedGivesZero := by
  intro dst s hv hs hds
  refine (execRecomp_valid hv s).trans ?_
  have hneg : (s.ds == 1#1) = true := by simp [hds]
  rw [hneg, recompose_negative_unsigned hs, finishFormat, classOf_zero]
  rfl

/-! ### CVT -/

/-- CVT of a finite word writes the recomposition of its decomposition (R145). -/
theorem exec_cvt_finite {src dst : Descriptor} (hsrc : src.valid = true) (hdst : dst.valid = true)
    {s : State}
    (hfin : ¬ Reference.NonFinite (Reference.wordClass src s.a)) :
    exec (.cvt src dst) s = .next (finishFormat s (Reference.wordClass src s.a) dst
      (recompose dst (decompose src (rawView src s.a)).neg (decompose src (rawView src s.a)).mag
        (decompose src (rawView src s.a)).exp)) := by
  have hcls : (decompose src (rawView src s.a)).cls = Reference.wordClass src s.a := by
    rw [decompose_cls, classOf_rawView hsrc]
  rw [← hcls] at hfin ⊢
  exact execCvt_converted hsrc hdst s (convert_of_finite dst hfin)

/-- The sign of a decomposition is that of the integer or the sign field (R124, R125). -/
theorem decompose_neg (d : Descriptor) (x : Word128) :
    (decompose d (rawView d x)).neg = if d.kind = .fixed then decide (Reference.fixedInteger d x < 0)
      else Reference.floatSign d x := by
  cases hk : d.kind with
  | fixed => rw [decompose_fixed hk, fixedInt_rawView, if_pos rfl]
  | float => rw [decompose_neg_float hk, signField_rawView, if_neg (by decide)]

/-- Settles O44: the sign, magnitude and power are those of the decomposition. -/
theorem cvtOfFiniteWord : Obligations.CvtOfFiniteWord := by
  intro src dst s hsrc hdst hfin
  obtain ⟨hr, hfinish⟩ := finishFormat_eq hdst (recompose_lt hdst (decompose src (rawView src s.a)).neg
    (decompose src (rawView src s.a)).mag (decompose src (rawView src s.a)).exp) s
    (Reference.wordClass src s.a)
  exact ⟨_, _, _, _, ⟨exactValue_decompose hsrc hfin, decompose_neg src s.a⟩,
    hr.trans (recompose_eq_reference hdst _ _ _),
    (exec_cvt_finite hsrc hdst hfin).trans (congrArg _ hfinish)⟩

/-- CVT of an Infinity or NaN goes by the table of R146. -/
theorem convert_of_nonFinite (dst : Descriptor) {x : Decomposition} (h : Reference.NonFinite x.cls) :
    convert dst x = special dst x.neg x.cls :=
  if_pos h

theorem nanWord_eq_canonicalNan (d : Descriptor) : nanWord d = Reference.canonicalNan d := by
  simp [nanWord, pack, Reference.canonicalNan]

/-- The canonical NaN is a NaN (R73). -/
theorem classOf_nanWord {d : Descriptor} (hk : d.kind = .float) (hv : d.valid = true) :
    classOf d (nanWord d) = .nan := by
  obtain ⟨-, hm, -⟩ := float_layout hk hv
  rw [nanWord, classOf_pack_emax hk hv (by simp) (Nat.pow_lt_pow_right (by omega) (by omega)),
    if_neg (Nat.two_pow_pos _).ne']

/-- What an Infinity or NaN becomes in a float format (R146). -/
theorem special_float {dst : Descriptor} (hk : dst.kind = .float) (neg : Bool) :
    special dst neg .nan = some (nanWord dst) ∧
    (neg = true → dst.signed = false → special dst neg .infinity = some 0) ∧
    ((neg = false ∨ dst.signed = true) → special dst neg .infinity = some (infinityWord dst neg)) := by
  refine ⟨by simp [special, hk], fun hneg hs => by simp [special, hk, hneg, hs], fun h => ?_⟩
  obtain h | h := h <;> simp [special, hk, h]

/-- Settles O45: the table of R146, branch by branch, with the class of each result. -/
theorem cvtOfInfinityAndNan : Obligations.CvtOfInfinityAndNan := by
  intro src dst s hsrc hdst hnf cls neg
  have hcls : (decompose src (rawView src s.a)).cls = cls := by
    rw [decompose_cls, classOf_rawView hsrc]
  have hneg : (decompose src (rawView src s.a)).neg = neg := by
    have hk := kind_eq_float_of_nonFinite ((classOf_rawView hsrc s.a).symm ▸ hnf)
    rw [decompose_neg_float hk, signField_rawView]
  have hconv : convert dst (decompose src (rawView src s.a)) = special dst neg cls := by
    rw [convert_of_nonFinite dst (hcls.symm ▸ hnf), hcls, hneg]
  have hwrite {raw : Nat} (h : special dst neg cls = some raw) :
      exec (.cvt src dst) s = .next (finishFormat s cls dst raw) := by
    rw [← hcls]
    exact execCvt_converted hsrc hdst s (hconv.trans h)
  refine ⟨fun hk => ?fixed, fun hk hc => ?nan, fun hk hc hn hs => ?zero, fun hk hc hs => ?infinity⟩
  case fixed =>
    have hnone := (convert_eq_none dst (decompose src (rawView src s.a))).mpr ⟨hcls.symm ▸ hnf, hk⟩
    refine (execCvt_representation hsrc hdst s hnone).trans ?_
    rw [hcls]
    obtain hc | hc : cls = .infinity ∨ cls = .nan := hnf
    · rw [hc]
      rfl
    · rw [hc]
      rfl
  all_goals
    rw [hc] at hwrite
    obtain ⟨hnan, hzero, hinf⟩ := special_float hk neg
  case nan =>
    rw [hwrite hnan, finishFormat, classOf_nanWord hk hdst, nanWord_eq_canonicalNan]
    rfl
  case zero =>
    rw [hwrite (hzero hn hs), finishFormat, classOf_zero]
    rfl
  case infinity =>
    have hsign : neg = true → dst.signed = true := fun hn => hs.resolve_left (by simp [hn])
    rw [hwrite (hinf hs), finishFormat, classOf_infinityWord hk hdst hsign,
      infinityWord, pack_eq_reference]
    rfl

/-! ### Conversions that lose nothing (R147) -/

/-- A fixed-point word is finite (R120). -/
theorem finite_of_fixed {d : Descriptor} (hk : d.kind = .fixed) (x : Word128) :
    ¬ Reference.NonFinite (Reference.wordClass d x) := by
  rw [wordClass_of_fixed hk]
  split_ifs <;> simp

/-- A fixed-point word whose integer, rescaled, is one of the destination's keeps its value (R147). -/
theorem fixedInt_recompose_decompose {src dst : Descriptor} (hsrc : src.kind = .fixed)
    (hdst : dst.kind = .fixed) {raw : Nat} {n : Int}
    (hn : (fixedInt src raw : ℚ) * 2 ^ ((dst.fracBits : Int) - src.fracBits) = n)
    (hlo : fixedLo dst ≤ n) (hhi : n ≤ fixedHi dst) :
    fixedInt dst (recompose dst (decompose src raw).neg (decompose src raw).mag
      (decompose src raw).exp) = n := by
  refine fixedInt_recompose_exact hdst ?_ hlo hhi
  rw [decompose_fixed hsrc, Reference.exactValue, sign_mul_natAbs, mul_assoc, ← zpow_add₀ two_ne_zero, ← hn,
    neg_add_eq_sub]

/-- A finite word's exponent field is below the largest (R122). -/
theorem expField_lt_emax {d : Descriptor} (hk : d.kind = .float) (hv : d.valid = true) {raw : Nat}
    (hfin : ¬ Reference.NonFinite (classOf d raw)) : expField d raw < d.emax := by
  have hlt := expField_lt d raw
  have hpos := emax_pos hk hv
  have hne : expField d raw ≠ d.emax := fun h1 => hfin (classOf_nonFinite hk (h1 ▸ hpos.ne') h1)
  unfold Descriptor.emax at hne ⊢
  omega

/-- The biased exponent of a finite word's fields: their row, or below it in the first row (R123, R142). -/
theorem biasedExp_fields (d : Descriptor) (raw : Nat) :
    (expField d raw = 0 ∧ biasedExp d (sigField d raw) (rowField d raw - d.bias - d.mantBits) ≤ 0) ∨
    (expField d raw ≠ 0 ∧
      biasedExp d (sigField d raw) (rowField d raw - d.bias - d.mantBits) = expField d raw) := by
  have hmant := mantField_lt d raw
  unfold biasedExp
  by_cases h0 : expField d raw = 0
  · obtain ⟨hsig, hrow⟩ := sig_row_of_expField_zero h0
    have hlen := bitlen_le hmant
    rw [hsig, hrow]
    exact .inl ⟨h0, by omega⟩
  · obtain ⟨hsig, hrow⟩ := sig_row_of_expField_pos h0
    have hlow := lt_bitlen (Nat.le_add_right (2 ^ d.mantBits) (mantField d raw))
    have hhigh := bitlen_le (M := 2 ^ d.mantBits + mantField d raw) (n := d.mantBits + 1)
      (by rw [Nat.pow_succ]; omega)
    rw [hsig, hrow]
    exact .inr ⟨h0, by omega⟩

/-- `FloatTarget` rounds a finite word's fields in the word's own row, so it keeps them (R142). -/
theorem floatRow_fields (d : Descriptor) (raw : Nat) :
    floatRow d (sigField d raw) (rowField d raw - d.bias - d.mantBits) = rowField d raw := by
  by_cases hM : sigField d raw = 0
  · by_cases h0 : expField d raw = 0
    · rw [floatRow, if_pos hM, (sig_row_of_expField_zero h0).2]
    · have := Nat.two_pow_pos d.mantBits
      have := (sig_row_of_expField_pos h0).1
      omega
  have hrow := floatRow_of_ne_zero d hM (rowField d raw - d.bias - d.mantBits)
  obtain ⟨h0, hexp⟩ | ⟨h0, hexp⟩ := biasedExp_fields d raw
  · rw [(sig_row_of_expField_zero h0).2] at hrow hexp ⊢
    omega
  · rw [(sig_row_of_expField_pos h0).2] at hrow hexp ⊢
    omega

theorem floatUnits_fields (d : Descriptor) (raw : Nat) :
    floatUnits d (sigField d raw) (rowField d raw - d.bias - d.mantBits) = sigField d raw := by
  rw [floatUnits, floatRow_fields, sub_self, roundShift_zero]

/-- The row and units of a word pack to its exponent and mantissa fields (R143). -/
theorem pack_row_sig (d : Descriptor) (neg : Bool) (raw : Nat) :
    pack d neg (rowField d raw - 1) (sigField d raw) = pack d neg (expField d raw) (mantField d raw) := by
  by_cases h0 : expField d raw = 0
  · obtain ⟨hsig, hrow⟩ := sig_row_of_expField_zero h0
    rw [hsig, hrow, h0]
  · obtain ⟨hsig, hrow⟩ := sig_row_of_expField_pos h0
    rw [hsig, hrow, pack_carry, Nat.sub_add_cancel (Nat.one_le_iff_ne_zero.mpr h0)]

/-- A finite word recomposes from its decomposition (R147). -/
theorem recompose_decompose {d : Descriptor} (hv : d.valid = true) {raw : Nat} (h : raw < 2 ^ d.bits)
    (hfin : ¬ Reference.NonFinite (classOf d raw)) :
    recompose d (decompose d raw).neg (decompose d raw).mag (decompose d raw).exp = raw := by
  cases hk : d.kind with
  | fixed =>
    obtain ⟨hlo, hhi⟩ := fixedInt_mem h
    exact fixedInt_injective (recompose_lt hv _ _ _) h
      (fixedInt_recompose_decompose hk hk (by simp) hlo hhi)
  | float =>
    obtain ⟨hneg, hmag, hexp⟩ := decompose_finite hk hfin
    have hlt := expField_lt_emax hk hv hfin
    have hfields := biasedExp_fields d raw
    rw [hneg, hmag, hexp, recompose, hk]
    calc floatTarget d (signField d raw) (sigField d raw) (rowField d raw - d.bias - d.mantBits)
        = pack d (signField d raw) (rowField d raw - 1) (sigField d raw) := by
          rw [floatTarget_eq_pack signed_of_signField fun _ => by omega, floatRow_fields, floatUnits_fields]
      _ = raw := by rw [pack_row_sig, pack_fields hk hv h]

/-- Settles O47: the word CVT writes is the recomposition of the source's own decomposition. -/
theorem conversionToTheSameFormatIsIdentity : Obligations.ConversionToTheSameFormatIsIdentity := by
  intro d s hv hfin
  have hraw := recompose_decompose hv (rawView_lt d s.a) ((classOf_rawView hv s.a).symm ▸ hfin)
  refine ⟨_, exec_cvt_finite hv hv hfin, ?_, by simp [ErrCode.code]⟩
  rw [finishFormat_r, hraw, (finishFormat_eq hv (rawView_lt d s.a) s .none).1]
  rfl

/-- The storage range in powers of two of the W - S bits below the sign (R141). -/
theorem fixedLo_fixedHi_eq (d : Descriptor) :
    fixedLo d = -(d.signBits * 2 ^ (d.bits - d.signBits)) ∧ fixedHi d = 2 ^ (d.bits - d.signBits) - 1 := by
  cases hs : d.signed <;> simp [fixedLo, fixedHi, Descriptor.signBits, hs]

/-- A format of at least the sign bits and i more bits below the sign holds 2^i times every integer of the
other (90_conflicts.md C5). -/
theorem fixed_range_scale {d e : Descriptor} {i : Nat} (hsign : d.signBits ≤ e.signBits)
    (hbits : d.bits - d.signBits + i ≤ e.bits - e.signBits) {n : Int} (hlo : fixedLo d ≤ n)
    (hhi : n ≤ fixedHi d) : fixedLo e ≤ n * 2 ^ i ∧ n * 2 ^ i ≤ fixedHi e := by
  obtain ⟨hdlo, hdhi⟩ := fixedLo_fixedHi_eq d
  obtain ⟨helo, hehi⟩ := fixedLo_fixedHi_eq e
  have hpos : (1 : Int) ≤ 2 ^ i := one_le_pow₀ (by norm_num)
  have hgrow : (2 : Int) ^ (d.bits - d.signBits) * 2 ^ i ≤ 2 ^ (e.bits - e.signBits) := by
    rw [← pow_add]
    exact pow_le_pow_right₀ (by norm_num) hbits
  rw [hdlo] at hlo
  rw [hdhi] at hhi
  rw [helo, hehi]
  constructor
  · have hcast : (d.signBits : Int) ≤ e.signBits := by exact_mod_cast hsign
    calc -((e.signBits : Int) * 2 ^ (e.bits - e.signBits))
        ≤ -((d.signBits : Int) * (2 ^ (d.bits - d.signBits) * 2 ^ i)) := by gcongr
      _ = -(d.signBits * 2 ^ (d.bits - d.signBits)) * 2 ^ i := by ring
      _ ≤ n * 2 ^ i := by gcongr
  · have hle : n * 2 ^ i ≤ (2 ^ (d.bits - d.signBits) - 1) * 2 ^ i := by gcongr
    rw [sub_mul] at hle
    omega

/-- Settles O48: the wider format holds the integer times 2^(f' - f) exactly, and the way back divides it. -/
theorem rescaleIsIdempotent : Obligations.RescaleIsIdempotent := by
  intro d e s hkd hke hvd hve hfrac hsign hint
  obtain ⟨i, hi⟩ := Nat.exists_eq_add_of_le hfrac
  have hd := fracBits_le hkd hvd
  have he := fracBits_le hke hve
  obtain ⟨hlo, hhi⟩ := fixedInt_mem (rawView_lt d s.a)
  obtain ⟨hlo', hhi'⟩ := fixed_range_scale (i := i) hsign (by omega) hlo hhi
  have hthere := fixedInt_recompose_decompose (src := d) (dst := e) (raw := rawView d s.a)
    (n := fixedInt d (rawView d s.a) * 2 ^ i) hkd hke (by simp [hi]) hlo' hhi'
  refine ⟨_, _, exec_cvt_finite hvd hve (finite_of_fixed hkd s.a),
    exec_cvt_finite hve hvd (finite_of_fixed hke _), ?_⟩
  rw [finishFormat_r, (finishFormat_eq hvd (recompose_lt hvd _ _ _) s .none).1, finishFormat_r,
    rawView_ofNat (recompose_lt hve _ _ _)]
  refine fixedInt_injective (raw' := rawView d s.a) (recompose_lt hvd _ _ _) (rawView_lt d s.a)
    (fixedInt_recompose_decompose hke hkd ?_ hlo hhi)
  have hback : (2 : ℚ) ^ i * 2 ^ ((d.fracBits : Int) - e.fracBits) = 1 := by
    rw [← zpow_natCast, ← zpow_add₀ two_ne_zero, hi, Nat.cast_add, sub_add_cancel_left, add_neg_cancel,
      zpow_zero]
  rw [hthere, Int.cast_mul, Int.cast_pow, Int.cast_two, mul_assoc, hback, mul_one]

end Sys2Proof.Machine
end

section
/-! SUPPORT. The rounder as the rule and as the nearest integer, and what RNDSH leaves in the state
(spec/43_rounder.md R160 to R162). -/

namespace Sys2Proof.Machine

/-! ### The rule (R160) -/

@[simp] theorem rne_zero_shift (M : Nat) : rne M 0 = M := by
  rw [rne_eq_reference, Reference.rne, if_pos rfl]

/-- The rule for a shift of 1 or more, by quotient and remainder (R160). -/
theorem rne_of_pos (M : Nat) {k : Nat} (hk : 0 < k) :
    rne M k = if M % 2 ^ k > 2 ^ (k - 1) ∨ (M % 2 ^ k = 2 ^ (k - 1) ∧ M / 2 ^ k % 2 = 1)
      then M / 2 ^ k + 1 else M / 2 ^ k := by
  rw [rne_eq_reference, Reference.rne, if_neg hk.ne', ← Nat.mod_eq_sub_div_mul]

/-- A magnitude below the unit of the result rounds to 0 or to 1: half a unit is a tie with the even 0
(R160, R162). -/
theorem rne_of_lt_two_pow {M k : Nat} (hk : 0 < k) (h : M < 2 ^ k) :
    rne M k = if M > 2 ^ (k - 1) then 1 else 0 := by
  simp [rne_of_pos M hk, Nat.div_eq_of_lt h, Nat.mod_eq_of_lt h]

/-- Settles O32: the rule by quotient and remainder, and the same rule where the quotient is 0. -/
theorem rneIsTheRule : Obligations.RneIsTheRule := by
  intro M k
  refine ⟨?_, ?_, fun hbeyond => ?_⟩
  · rintro rfl
    exact rne_zero_shift M
  · rintro hk _ _ _ rfl rfl rfl
    rw [rne_of_pos M hk, Nat.mod_eq_sub_div_mul]
  · have hlt : M < 2 ^ k := (lt_two_pow_bitlen M).trans (Nat.pow_lt_pow_right (by omega) hbeyond)
    exact ⟨Nat.div_eq_of_lt hlt, rne_of_lt_two_pow (by omega) hlt⟩

/-! ### The nearest integer (R161) -/

/-- `RNE(M, k)` rounds the quotient M / 2^k to the nearest integer, ties to even (R161). -/
theorem nearestEven_rne_div (M k : Nat) : NearestEven (rne M k) ((M : ℚ) / 2 ^ k) := by
  simpa [zpow_neg, div_eq_mul_inv] using nearestEven_rne M k

/-- Settles O33: the nearest integer to M / 2^k, scaled by 2^k, and the rule at an exact half. -/
theorem rneRoundsToNearestEven : Obligations.RneRoundsToNearestEven := by
  intro M k
  have hnearest := (nearestEven_rne_div M k).nearest_multiple (by positivity)
  refine ⟨fun n => ?_, fun n hn heq => ?_, fun hk hhalf => ?_⟩
  · exact_mod_cast (hnearest n).1
  · have hne : (n : ℚ) * 2 ^ k ≠ ((rne M k : Int) : ℚ) * 2 ^ k :=
      (mul_left_injective₀ (by positivity)).ne (Int.cast_injective.ne hn)
    have heven := (hnearest n).2 hne (by exact_mod_cast heq)
    omega
  · rw [rne_of_pos M hk, hhalf]
    split_ifs <;> omega

/-- Rounding to nearest keeps the order: where it could be reversed the two numbers are one tie, which has
one even neighbour (R161). -/
theorem NearestEven.mono {n m : Int} {v w : ℚ} (hn : NearestEven n v) (hm : NearestEven m w)
    (h : v ≤ w) : n ≤ m := by
  by_contra hlt
  have hgap : (m : ℚ) + 1 ≤ n := by exact_mod_cast (by omega : m + 1 ≤ n)
  obtain ⟨hnle, hntie⟩ := hn
  obtain ⟨hmle, hmtie⟩ := hm
  have hnv := le_abs_self ((n : ℚ) - v)
  have hmw := neg_abs_le ((m : ℚ) - w)
  have hneven := hntie (by linarith)
  have hmeven := hmtie (by linarith)
  have hsucc : (n : ℚ) = ((m + 1 : Int) : ℚ) := by push_cast; linarith
  have : n = m + 1 := by exact_mod_cast hsucc
  omega

/-- Rounding does not pass an integer that the quotient does not pass (R161). -/
theorem rne_le_of_le_mul {M k n : Nat} (h : M ≤ 2 ^ k * n) : rne M k ≤ n := by
  have hquot : (M : ℚ) / 2 ^ k ≤ ((n : Int) : ℚ) := by
    rw [div_le_iff₀' (by positivity)]
    exact_mod_cast h
  exact_mod_cast (nearestEven_rne_div M k).le_of_le hquot

/-- Settles O34: rounding to nearest keeps the order and does not pass the integer above. -/
theorem rneIsMonotonicAndBounded : Obligations.RneIsMonotonicAndBounded := by
  intro k
  refine ⟨fun M N hMN => ?_, fun M => ?_, fun M hk hM => ?_⟩
  · have hquot : (M : ℚ) / 2 ^ k ≤ N / 2 ^ k := by gcongr
    exact_mod_cast (nearestEven_rne_div M k).mono (nearestEven_rne_div N k) hquot
  · exact rne_le_of_le_mul (le_smul_ceilDiv (Nat.two_pow_pos k))
  · exact rne_le_two_pow (hM.trans_le (Nat.pow_le_pow_right (by omega) (by omega)))

/-! ### RNDSH (R162) -/

/-- The word of RNDSH as a number: the shift above the opcode (R64). -/
theorem encode_rndsh {k : Nat} (hk : k < 512) :
    encode (.rndsh k) = BitVec.ofNat 32 (k * 2 ^ 5 + 0x0B) := by
  obtain ⟨hop, hzero, hshift⟩ := decodedFieldsAreTheFormatsBits _ _
    (decodeInvertsEncode (.rndsh k) (decide_eq_true hk))
  refine BitVec.eq_of_toNat_eq ?_
  rw [BitVec.toNat_ofNat]
  omega

/-- RNDSH as the registers it writes, for a shift of any size (R162). -/
theorem exec_rndsh (k : Nat) (s : State) : exec (.rndsh k) s = .next { s with
    dm := BitVec.ofNat 256 (Reference.rne s.dm.toNat k)
    de := BitVec.ofNat 256 ((s.de.toNat + k) % 2 ^ 256)
    status := 0#32 } := by
  have hde : s.de + BitVec.ofNat 256 k = BitVec.ofNat 256 ((s.de.toNat + k) % 2 ^ 256) :=
    BitVec.eq_of_toNat_eq (by simp)
  rw [← rne_eq_reference, ← hde]
  rfl

/-- Settles O35: the registers RNDSH writes, and the rounding of a 256-bit magnitude by a shift of its whole
length or more. -/
theorem rndshRoundsTheMagnitude : Obligations.RndshRoundsTheMagnitude := by
  intro s k hk
  have hdm := s.dm.isLt
  have hle : rne s.dm.toNat k ≤ s.dm.toNat :=
    rne_le_of_le_mul (Nat.le_mul_of_pos_left _ (Nat.two_pow_pos k))
  refine ⟨encode_rndsh hk, exec_rndsh k s, ?_⟩
  rw [← rne_eq_reference]
  refine ⟨hle.trans_lt hdm, ?_, ?_, fun hbeyond => ?_⟩
  · rintro rfl
    exact rne_zero_shift _
  · rintro rfl
    exact rne_of_lt_two_pow (by decide) hdm
  · have hhalf : s.dm.toNat < 2 ^ (k - 1) :=
      hdm.trans_le (Nat.pow_le_pow_right (by omega) (by omega))
    have hunit : s.dm.toNat < 2 ^ k :=
      hhalf.trans_le (Nat.pow_le_pow_right (by omega) (by omega))
    rw [rne_of_lt_two_pow (by omega) hunit, if_neg hhalf.not_gt]

end Sys2Proof.Machine
end

section
/-! SUPPORT. The error a command reports, and the statements about errors, the idle WNE and a second master
(spec/60_exceptions.md R200 to R212). -/

namespace Sys2Proof.Machine

/-! ### Invalid descriptors (R69, R70, R202) -/

/-- The rule counts with the effective parameter: the bits above the sign must hold f, or m and an exponent
bit. -/
theorem invalidFormat_iff (d : Descriptor) : Reference.InvalidFormat d ↔ d.valid = false := by
  rw [← Bool.not_eq_true]
  by_cases h0 : d.param = 0
  · refine iff_of_false ?_ (not_not.mpr (valid_of_param_eq_zero h0))
    obtain ⟨kind, width, signed, param⟩ := d
    obtain rfl : param = 0 := h0
    cases kind <;> cases width <;> cases signed <;>
      simp [Reference.InvalidFormat, Width.bits, defMant]
  · obtain ⟨hfixed, hfloat⟩ := legalParametersPerWidth d
    unfold Descriptor.bits at hfixed hfloat
    cases hk : d.kind with
    | fixed => simp only [Reference.InvalidFormat, hk, h0, if_false, hfixed hk, not_le]
    | float =>
      simp only [Reference.InvalidFormat, hk, h0, if_false, hfloat hk]
      omega

theorem usesInvalidFormat_decomp (src : Descriptor) :
    Reference.UsesInvalidFormat (.decomp src) ↔ src.valid = false :=
  invalidFormat_iff src

theorem usesInvalidFormat_recomp (dst : Descriptor) :
    Reference.UsesInvalidFormat (.recomp dst) ↔ dst.valid = false :=
  invalidFormat_iff dst

theorem usesInvalidFormat_cvt (src dst : Descriptor) :
    Reference.UsesInvalidFormat (.cvt src dst) ↔ (src.valid && dst.valid) = false := by
  rw [Reference.UsesInvalidFormat, invalidFormat_iff, invalidFormat_iff, Bool.and_eq_false_iff]

/-! ### The error a command reports (R202 to R205) -/

/-- A command that converts an Infinity or NaN in A to a fixed-point format (R204). -/
def ConvertsNonFiniteToFixed (i : Instr) (a : Word128) : Prop :=
  ∃ src dst, i = .cvt src dst ∧ dst.kind = .fixed ∧
    Reference.NonFinite (Reference.wordClass src a)

theorem convertsNonFiniteToFixed_cvt (src dst : Descriptor) (a : Word128) :
    ConvertsNonFiniteToFixed (.cvt src dst) a ↔
      dst.kind = .fixed ∧ Reference.NonFinite (Reference.wordClass src a) := by
  simp [ConvertsNonFiniteToFixed]

/-- What a command can report: CONFIG or REPRESENTATION, each with its cause and with nothing but STATUS
written, or no error where neither cause applies. -/
theorem exec_cases (i : Instr) (s : State) :
    (Reference.UsesInvalidFormat i ∧ exec i s = .next (raise s .config .none)) ∨
    (¬ Reference.UsesInvalidFormat i ∧ ConvertsNonFiniteToFixed i s.a ∧
      ∃ c, Reference.NonFinite c ∧ exec i s = .next (raise s .representation c)) ∨
    (¬ Reference.UsesInvalidFormat i ∧ ¬ ConvertsNonFiniteToFixed i s.a ∧
      ∃ t, exec i s = .next t ∧ statusErr t.status = 0#4) := by
  cases i with
  | nop | iadd | isub | ineg | imul | rndsh k =>
    exact .inr (.inr ⟨id, by simp [ConvertsNonFiniteToFixed], _, rfl, rfl⟩)
  | decomp src =>
    rw [usesInvalidFormat_decomp]
    cases hv : src.valid with
    | false => exact .inl ⟨rfl, execDecomp_invalid hv s⟩
    | true =>
      exact .inr (.inr ⟨by simp, by simp [ConvertsNonFiniteToFixed], _, execDecomp_valid hv s,
        statusErr_mkStatus ..⟩)
  | recomp dst =>
    rw [usesInvalidFormat_recomp]
    cases hv : dst.valid with
    | false => exact .inl ⟨rfl, execRecomp_invalid hv s⟩
    | true =>
      exact .inr (.inr ⟨by simp, by simp [ConvertsNonFiniteToFixed], _, execRecomp_valid hv s,
        statusErr_mkStatus ..⟩)
  | cvt src dst =>
    rw [usesInvalidFormat_cvt, convertsNonFiniteToFixed_cvt]
    obtain ⟨hv, he⟩ | ⟨hs, hd, hc, he⟩ | ⟨raw, hs, hd, hc, he⟩ := execCvt_cases src dst s
    · exact .inl ⟨hv, he⟩
    · obtain ⟨hnf, hk⟩ := (convert_eq_none dst _).mp hc
      have hcls := (decompose_cls src _).trans (classOf_rawView hs s.a)
      exact .inr (.inl ⟨by simp [hs, hd], ⟨hk, hcls ▸ hnf⟩, _, hnf, he⟩)
    · have hcls := (decompose_cls src _).trans (classOf_rawView hs s.a)
      refine .inr (.inr ⟨by simp [hs, hd], fun ⟨hk, hnf⟩ => ?_, _, he, statusErr_mkStatus ..⟩)
      have hnone := (convert_eq_none dst _).mpr ⟨hcls.symm ▸ hnf, hk⟩
      simp [hc] at hnone

/-- The same as the error code: the first cause that applies decides it (R205). -/
theorem exec_reports (i : Instr) (s : State) : ∃ t, exec i s = .next t ∧
    (Reference.UsesInvalidFormat i → statusErr t.status = 2#4) ∧
    (¬ Reference.UsesInvalidFormat i →
      (ConvertsNonFiniteToFixed i s.a → statusErr t.status = 3#4) ∧
      (¬ ConvertsNonFiniteToFixed i s.a → statusErr t.status = 0#4)) := by
  obtain ⟨hu, he⟩ | ⟨hu, hr, c, -, he⟩ | ⟨hu, hr, t, he, herr⟩ := exec_cases i s
  · exact ⟨_, he, fun _ => statusErr_mkStatus .., fun hnot => absurd hu hnot⟩
  · exact ⟨_, he, fun h => absurd h hu, fun _ =>
      ⟨fun _ => statusErr_mkStatus .., fun hnot => absurd hr hnot⟩⟩
  · exact ⟨t, he, fun h => absurd h hu, fun _ => ⟨fun h => absurd h hr, fun _ => herr⟩⟩

/-- Settles O12: the frame of each command names the state it ends in. -/
theorem everyCommandCompletes : Obligations.EveryCommandCompletes := by
  intro i s
  obtain ⟨t, ht, -⟩ := commandsWriteOnlyTheirRegisters i s
  exact ⟨t, ht⟩

/-- Settles O49: CONFIG is raised in the one case of `exec_cases` in which a descriptor is invalid. -/
theorem invalidDescriptorRaisesConfig : Obligations.InvalidDescriptorRaisesConfig := by
  intro i s
  obtain ⟨hu, he⟩ | ⟨hu, -, c, -, he⟩ | ⟨hu, -, t, he, herr⟩ := exec_cases i s
  · exact ⟨fun _ => he, fun hnot => absurd hu hnot⟩
  · exact ⟨fun h => absurd h hu, fun _ => ⟨_, he, by simp [ErrCode.code]⟩⟩
  · exact ⟨fun h => absurd h hu, fun _ => ⟨t, he, by simp [herr]⟩⟩

/-- A word that ends with an error has changed STATUS alone, to one of the four values of R203. -/
theorem executeWord_error {s t : State} {w : Word} (h : executeWord s w = .next t)
    (herr : statusErr t.status ≠ 0#4) :
    t = s.withStatus t.status ∧ (t.status = 0x00000001#32 ∨ t.status = 0x00000002#32 ∨
      t.status = 0x00000043#32 ∨ t.status = 0x00000053#32) := by
  cases hd : decode w with
  | illegal why =>
    obtain rfl : _ = t := by simpa [executeWord_illegal hd] using h
    exact ⟨rfl, .inl rfl⟩
  | instr i =>
    rw [executeWord_instr hd] at h
    obtain ⟨-, he⟩ | ⟨-, -, c, hc, he⟩ | ⟨-, -, u, he, hu⟩ := exec_cases i s
    · obtain rfl : _ = t := by simpa [he] using h
      exact ⟨rfl, .inr (.inl rfl)⟩
    · obtain rfl : _ = t := by simpa [he] using h
      obtain rfl | rfl := hc
      · exact ⟨rfl, .inr (.inr (.inl rfl))⟩
      · exact ⟨rfl, .inr (.inr (.inr rfl))⟩
    · obtain rfl : u = t := by simpa [he] using h
      exact absurd hu herr

/-- Settles O50: the write takes the access and stores CMD, the error changes STATUS, and what waits next
is served as after any other command. -/
theorem errorsChangeStatusAlone : Obligations.ErrorsChangeStatusAlone := by
  intro s t w rest hp hstep herr
  obtain ⟨ht, hstatus⟩ := executeWord_error ((step_cmd_write hp).symm.trans hstep) herr
  refine ⟨ht, hstatus, fun w' rest' i hrest hd => commandWriteRunsDecoded t w' i rest' ?_ hd⟩
  rw [ht]
  exact hrest

/-- Settles O51: an illegal word is no command, and a command reports by its first cause. -/
theorem firstErrorThatAppliesIsReported : Obligations.FirstErrorThatAppliesIsReported := by
  intro s w rest hp
  rw [step_cmd_write hp]
  cases hd : decode w with
  | illegal why => exact ⟨_, executeWord_illegal hd _, fun _ => rfl, by simp⟩
  | instr i =>
    obtain ⟨t, ht, herr⟩ := exec_reports i ((s.withPending rest).withCmd w)
    refine ⟨t, (executeWord_instr hd _).trans ht,
      fun hill => absurd hill (not_illegalEncoding_of_decode hd), fun i' hi' => ?_⟩
    obtain rfl : i = i' := by simpa using hi'
    exact herr

/-! ### The idle WNE and a second master (R210, R212) -/

/-- Settles O19: a step without an event is idle. -/
theorem idleHoldsItsRegisters : Obligations.IdleHoldsItsRegisters :=
  fun _ => step_idle

/-- Settles O20: a second master writes registers only; ID is a constant, not a register of the state. -/
theorem secondMasterLeavesTheHostsAccesses : Obligations.SecondMasterLeavesTheHostsAccesses :=
  fun _ _ hp => ⟨_, step_event hp, rfl, rfl, rfl, rfl⟩

end Sys2Proof.Machine
end

section
/-! SUPPORT. What the reset signal leaves in WNE and on the bus, and the statements about reset
(spec/70_reset_and_hazards.md R220 to R222). -/

namespace Sys2Proof.Machine

/-! ### The registers after reset (R220) -/

theorem resetRegisters_registersAtReset (s : State) :
    Reference.RegistersAtReset (resetRegisters s) :=
  ⟨resetRegisters_status s, resetRegisters_cmd s, resetRegisters_a s, resetRegisters_b s,
    resetRegisters_r s, resetRegisters_ds s, resetRegisters_dm s, resetRegisters_de s, rfl⟩

/-- The answer to a cut read is on the host's side of the bus: it touches no register (R222). -/
theorem applyReset_registersAtReset (s : State) (cut : Option Access) :
    Reference.RegistersAtReset (applyReset s cut) := by
  have hr := resetRegisters_registersAtReset s
  match cut with
  | none => exact hr
  | some (.read _ _) => exact hr
  | some (.write _ _ _) => exact hr

/-- A reset right after reset changes nothing: what holds of `resetRegisters` holds of `State.reset`. -/
theorem resetRegisters_reset : resetRegisters State.reset = State.reset := rfl

/-- Settles O17: a step that takes the reset signal ends in `applyReset`, whatever access it cuts. -/
theorem resetGivesEveryRegisterItsResetValue : Obligations.ResetGivesEveryRegisterItsResetValue :=
  ⟨resetRegisters_reset ▸ resetRegisters_registersAtReset State.reset,
    fun _ cut _ hp => ⟨_, step_event hp, applyReset_registersAtReset _ cut⟩⟩

/-! ### The bus after reset (R222) -/

/-- Settles O18: the step takes the reset signal off the bus, and of the three kinds of cut only a read
adds a reply, with the free value it takes. -/
theorem resetKeepsTheBusGoing : Obligations.ResetKeepsTheBusGoing := by
  intro s cut rest hp
  refine ⟨_, step_event hp, applyReset_pending _ cut, ?_⟩
  match cut with
  | none => exact ⟨rfl, rfl⟩
  | some (.read _ _) => exact ⟨rfl, Config.cutRead s.freeCount, rfl⟩
  | some (.write _ _ _) => exact ⟨rfl, rfl⟩

/-! ### The invariant at reset -/

/-- Settles O57: nothing waits on the bus at reset, so no second master does, and the reset registers meet
the rest of the invariant. -/
theorem invariantHoldsAfterReset : Obligations.InvariantHoldsAfterReset := by
  have hone : SingleHost State.reset := List.not_mem_nil
  unfold Obligations.InvariantHoldsAfterReset
  rw [← resetRegisters_reset]
  exact resetRegisters_inv hone

end Sys2Proof.Machine
end
